-- ==== Sys2Proof/Word.lean ====
section
/-! DEFINITION. The words of the FSD: bytes, the 16-bit distances, and the two port words.
Every quantity is unsigned and bit 0 is the least significant bit (spec/00_scope.md R10). -/

namespace Sys2Proof

/-- A byte: 8 bits, 0 to 255 (R10). -/
abbrev Byte := BitVec 8

/-- A 16-bit unsigned distance (R44). -/
abbrev Half := BitVec 16

/-- The stream side's event word, format EVT9 (R101): bit 8 is `E`, bits 7:0 are `D`. -/
abbrev EventWord := BitVec 9

/-- The host side's command word, format HCMD12 (R104): bits 11:8 are `OP`, bits 7:0 are `ARG`. -/
abbrev CommandWord := BitVec 12

end Sys2Proof
end

