-- ==== Sys2Proof/Config.lean ====
section
/-! DEFINITION. What is fixed for one FSD: the constants the source gives (spec/00_scope.md R5), the
parameter record `P` of the constants it names without a value (R6), the lengths derived from them
(R7), and the test record `P_TEST` (R9). `P` is an argument of the model: State carries it, no step
changes it, and a statement about every state is a statement about every record. -/

namespace Sys2Proof

/-- Bytes of a header marker (R5). -/
abbrev Config.HDR_LEN : Nat := 4
/-- Bytes of the trailing checksum/footer field (R5). -/
abbrev Config.TRL_LEN : Nat := 4
/-- Entries of the sliding window (R5). -/
abbrev Config.WIN_CAP : Nat := 4
/-- Gates, indices 0 to 8 (R5). -/
abbrev Config.GATES : Nat := 9
/-- Extra bytes of an engineering frame, `2 * GATES` (R5). -/
abbrev Config.ENG_EXTRA : Nat := 18
/-- The failure counter must exceed this for the baud warning (R5). -/
abbrev Config.FAIL_THRESH : Nat := 32
/-- Bytes of the Bluetooth address field (R5). -/
abbrev Config.MAC_LEN : Nat := 6
/-- Bytes of the firmware major-version field (R5). -/
abbrev Config.FW_MAJ_LEN : Nat := 2

/-- A 4-byte header or footer marker in wire order: `b0` arrives first (R6, R76). -/
structure Marker where
  b0 : Byte
  b1 : Byte
  b2 : Byte
  b3 : Byte
  deriving DecidableEq, Repr

/-- The marker as the byte string it is, in wire order (R76). -/
def Marker.toList (m : Marker) : List Byte := [m.b0, m.b1, m.b2, m.b3]

/-- The parameter record `P` (R6). A frame offset counts bytes from 0 at the first header byte. -/
structure Params where
  /-- header marker of a telemetry frame, the pattern the synchronizer hunts -/
  HDR_TLM : Marker
  /-- what the last 4 bytes of a telemetry frame are compared with -/
  TRL_TLM : Marker
  /-- header marker of an acknowledgment frame -/
  HDR_ACK : Marker
  /-- footer marker of an acknowledgment frame -/
  TRL_ACK : Marker
  /-- bytes of a standard telemetry payload -/
  N : Nat
  /-- offset of the target-type byte -/
  OFF_TT : Nat
  /-- offset of the low byte of the moving-target distance -/
  OFF_MD : Nat
  /-- offset of the moving-target energy byte -/
  OFF_ME : Nat
  /-- offset of the low byte of the static-target distance -/
  OFF_SD : Nat
  /-- offset of the static-target energy byte -/
  OFF_SE : Nat
  /-- offset of the detection-distance byte -/
  OFF_DD : Nat
  /-- offset of moving-gate energy 0 -/
  OFF_MG : Nat
  /-- offset of static-gate energy 0 -/
  OFF_SG : Nat
  /-- offset of the engineering-format signature -/
  ENG_SIG_OFF : Nat
  /-- the engineering-format signature -/
  ENG_SIG : List Byte
  /-- offset of the firmware major-version field in an acknowledgment -/
  OFF_FW_MAJ : Nat
  /-- offset of the firmware minor-version field in an acknowledgment -/
  OFF_FW_MIN : Nat
  /-- bytes of the minor-version field -/
  FW_MIN_LEN : Nat
  /-- offset of the 6-byte address field in an acknowledgment -/
  OFF_MAC : Nat
  /-- bytes of the frame buffer -/
  BUF_CAP : Nat
  /-- width in bits of the two saturating counters -/
  CNT_W : Nat
  deriving DecidableEq, Repr

/-- `L_STD = HDR_LEN + N + TRL_LEN`, the length of a standard telemetry frame (R7). -/
def Params.L_STD (P : Params) : Nat := Config.HDR_LEN + P.N + Config.TRL_LEN

/-- `L_ENG = L_STD + ENG_EXTRA`, the length of an engineering telemetry frame (R7). -/
def Params.L_ENG (P : Params) : Nat := P.L_STD + Config.ENG_EXTRA

/-- `FrameLen(e)` (R7). -/
def Params.frameLen (P : Params) (e : Bool) : Nat := if e then P.L_ENG else P.L_STD

/-- `P_TEST` (R9): not normative; it serves the spec's vectors, this package's tests and the closed
term `State.reset` (notes/assumptions/1.md, DESIGN CHOICE). -/
def Params.pTest : Params where
  HDR_TLM := ⟨0xF4, 0xF3, 0xF2, 0xF1⟩
  TRL_TLM := ⟨0xF8, 0xF7, 0xF6, 0xF5⟩
  HDR_ACK := ⟨0xFD, 0xFC, 0xFB, 0xFA⟩
  TRL_ACK := ⟨0x04, 0x03, 0x02, 0x01⟩
  N := 15
  OFF_TT := 8
  OFF_MD := 9
  OFF_ME := 11
  OFF_SD := 12
  OFF_SE := 14
  OFF_DD := 15
  OFF_MG := 19
  OFF_SG := 28
  ENG_SIG_OFF := 6
  ENG_SIG := [0x01]
  OFF_FW_MAJ := 12
  OFF_FW_MIN := 14
  FW_MIN_LEN := 4
  OFF_MAC := 10
  BUF_CAP := 64
  CNT_W := 8

end Sys2Proof
end

