-- ==== Sys2Proof/Syntax.lean ====
section
/-! DEFINITION. The instruction set of the FSD: 2 stream events and 11 host commands
(spec/00_scope.md R1, spec/30_encoding.md R100 to R105), one constructor per row of
spec/opcode_table.json. The operand types are exactly the operand widths of the encodings, so every
term is a legal instruction. -/

namespace Sys2Proof

inductive Instr where
  /-- EV_BYTE b: the transport read one byte (R102). -/
  | evByte (b : Byte)
  /-- EV_EMPTY: a transport read timed out with zero bytes (R103). -/
  | evEmpty
  /-- NOP (R220). -/
  | nop
  /-- START (R221). -/
  | start
  /-- STOP (R223). -/
  | stop
  /-- SET_ENG v, `v = ARG[0]` (R222). -/
  | setEng (v : Bool)
  /-- GET_DATA (R224). -/
  | getData
  /-- GET_STATUS (R225). -/
  | getStatus
  /-- CLR_WARN m, `m = ARG` (R226). -/
  | clrWarn (m : Byte)
  /-- BUF_CLR (R261). -/
  | bufClr
  /-- BUF_PUSH b, `b = ARG` (R262). -/
  | bufPush (b : Byte)
  /-- DEC_FW (R265). -/
  | decFw
  /-- DEC_MAC (R267). -/
  | decMac
  deriving DecidableEq, Repr

/-- The stream side's two events (R12, R102, R103). -/
def Instr.isEvent : Instr → Bool
  | .evByte _ | .evEmpty => true
  | .nop | .start | .stop | .setEng _ | .getData | .getStatus | .clrWarn _ => false
  | .bufClr | .bufPush _ | .decFw | .decMac => false

/-- The host side's eleven commands (R12, R105). -/
def Instr.isHost (i : Instr) : Bool := !i.isEvent

end Sys2Proof
end

