-- ==== Sys2Proof/WellFormed.lean ====
section
/-! DEFINITION. What must be checked before the FSD has a meaning: `WF(P)` of spec/00_scope.md R8,
one named check per clause. The instructions themselves need none: their operand types are as wide as
the encodings' operand fields (Sys2Proof/Syntax.lean), and the words that encode no instruction are
refused by Sys2Proof/Decode.lean. -/

namespace Sys2Proof

/-- A 1-byte standard field lies in the payload of a standard frame (R8(a)). -/
def Params.byteFieldOk (P : Params) (off : Nat) : Bool := 4 ≤ off && off ≤ P.L_STD - 5

/-- A 2-byte standard field lies in the payload of a standard frame (R8(a)). -/
def Params.halfFieldOk (P : Params) (off : Nat) : Bool := 4 ≤ off && off ≤ P.L_STD - 6

/-- R8(a): every standard field lies after the header and before the trailing field. -/
def Params.standardFieldsOk (P : Params) : Bool :=
  P.byteFieldOk P.OFF_TT && P.byteFieldOk P.OFF_ME && P.byteFieldOk P.OFF_SE &&
    P.byteFieldOk P.OFF_DD && P.halfFieldOk P.OFF_MD && P.halfFieldOk P.OFF_SD

/-- R8(b): each 9-byte gate array lies in the payload of an engineering frame. -/
def Params.gateFieldsOk (P : Params) : Bool :=
  (4 ≤ P.OFF_MG && P.OFF_MG ≤ P.L_ENG - 13) && (4 ≤ P.OFF_SG && P.OFF_SG ≤ P.L_ENG - 13)

/-- R8(c): the signature has a byte and lies in a frame captured at standard length. -/
def Params.signatureOk (P : Params) : Bool :=
  1 ≤ P.ENG_SIG.length && P.ENG_SIG_OFF + P.ENG_SIG.length ≤ P.L_STD

/-- The end of the firmware fields, DEC_FW's `need` (R265). -/
def Params.needFw (P : Params) : Nat :=
  max (P.OFF_FW_MAJ + Config.FW_MAJ_LEN) (P.OFF_FW_MIN + P.FW_MIN_LEN)

/-- The end of the address field, DEC_MAC's `need` (R267). -/
def Params.needMac (P : Params) : Nat := P.OFF_MAC + Config.MAC_LEN

/-- R8(d): the buffer holds an engineering frame, and an acknowledgment with its fields and footer. -/
def Params.bufferOk (P : Params) : Bool :=
  P.L_ENG ≤ P.BUF_CAP && max P.needFw P.needMac + 4 ≤ P.BUF_CAP

/-- R8(e): the acknowledgment fields lie after the header. -/
def Params.ackFieldsOk (P : Params) : Bool :=
  4 ≤ P.OFF_FW_MAJ && 4 ≤ P.OFF_FW_MIN && 4 ≤ P.OFF_MAC

/-- R6: the minor-version field has at least 1 byte. -/
def Params.minorOk (P : Params) : Bool := 1 ≤ P.FW_MIN_LEN

/-- R8(f): a counter can hold 33. -/
def Params.counterOk (P : Params) : Bool := 6 ≤ P.CNT_W

/-- `WF(P)` (R8, with R6's type of `FW_MIN_LEN`). Fields may overlap one another. -/
def Params.wf (P : Params) : Bool :=
  P.standardFieldsOk && P.gateFieldsOk && P.signatureOk && P.bufferOk && P.ackFieldsOk &&
    P.minorOk && P.counterOk

end Sys2Proof
end

