-- ==== Sys2Proof/Decode.lean ====
section
/-! DEFINITION. The two ports' words, the opcode map of spec/30_encoding.md R101 to R106, the decoder
(total; an illegal command word is rejected by the name of R106's class it falls in) and, after it,
the encoder. The two ports are separate: an event word and a command word may be the same number. -/

namespace Sys2Proof

/-- A word at one of the two ports (R100). -/
inductive PortWord where
  /-- an EVT9 word at the stream side's port -/
  | event (w : EventWord)
  /-- an HCMD12 word at the host side's port -/
  | command (w : CommandWord)
  deriving DecidableEq, Repr

/-- The three classes of illegal command word (R106, R119). -/
inductive IllegalWord where
  /-- `OP` in 0xB to 0xF -/
  | reservedOp
  /-- an operand-less command with `ARG != 0` -/
  | strayArg
  /-- SET_ENG with `ARG[7:1] != 0` -/
  | setEngArg
  deriving DecidableEq, Repr

/-- `E`, bit 8 of an event word (R101). -/
def EventWord.E (w : EventWord) : BitVec 1 := w.extractLsb' 8 1

/-- `D`, bits 7:0 of an event word (R101). -/
def EventWord.D (w : EventWord) : Byte := w.extractLsb' 0 8

/-- `OP`, bits 11:8 of a command word (R104). -/
def CommandWord.OP (w : CommandWord) : BitVec 4 := w.extractLsb' 8 4

/-- `ARG`, bits 7:0 of a command word (R104). -/
def CommandWord.ARG (w : CommandWord) : Byte := w.extractLsb' 0 8

/-- Every event word is legal; `D` is ignored when `E = 1` (R101 to R103). -/
def decodeEvent (w : EventWord) : Instr :=
  if EventWord.E w = 1 then .evEmpty else .evByte (EventWord.D w)

/-- For a command without an operand `ARG` must be 0x00 (R104, R106). -/
def noOperand (arg : Byte) (i : Instr) : Except IllegalWord Instr :=
  if arg = 0 then .ok i else .error .strayArg

/-- SET_ENG's operand: `v = ARG[0]`, and `ARG[7:1]` must be 0 (R105, R106). -/
def setEngOperand (arg : Byte) : Except IllegalWord Instr :=
  if arg.extractLsb' 1 7 = 0 then .ok (.setEng (arg.getLsbD 0)) else .error .setEngArg

/-- The opcode map (R105); a word that matches no row is illegal (R106). -/
def decodeCommand (w : CommandWord) : Except IllegalWord Instr :=
  let arg := CommandWord.ARG w
  match (CommandWord.OP w).toNat with
  | 0x0 => noOperand arg .nop
  | 0x1 => noOperand arg .start
  | 0x2 => noOperand arg .stop
  | 0x3 => setEngOperand arg
  | 0x4 => noOperand arg .getData
  | 0x5 => noOperand arg .getStatus
  | 0x6 => .ok (.clrWarn arg)
  | 0x7 => noOperand arg .bufClr
  | 0x8 => .ok (.bufPush arg)
  | 0x9 => noOperand arg .decFw
  | 0xA => noOperand arg .decMac
  | _ => .error .reservedOp

/-- The decoder of a word at either port. -/
def decode : PortWord → Except IllegalWord Instr
  | .event w => .ok (decodeEvent w)
  | .command w => decodeCommand w

/-- An event word from its fields (R101). -/
def eventWord (e : BitVec 1) (d : Byte) : EventWord := e ++ d

/-- A command word from its fields (R104). -/
def commandWord (op : BitVec 4) (arg : Byte) : CommandWord := op ++ arg

/-- The encoder: EV_EMPTY in its canonical spelling `D = 0` (R103), a command by its row of R105. -/
def encode : Instr → PortWord
  | .evByte b => .event (eventWord 0 b)
  | .evEmpty => .event (eventWord 1 0)
  | .nop => .command (commandWord 0x0 0)
  | .start => .command (commandWord 0x1 0)
  | .stop => .command (commandWord 0x2 0)
  | .setEng v => .command (commandWord 0x3 (if v then 1 else 0))
  | .getData => .command (commandWord 0x4 0)
  | .getStatus => .command (commandWord 0x5 0)
  | .clrWarn m => .command (commandWord 0x6 m)
  | .bufClr => .command (commandWord 0x7 0)
  | .bufPush b => .command (commandWord 0x8 b)
  | .decFw => .command (commandWord 0x9 0)
  | .decMac => .command (commandWord 0xA 0)

/-- A mnemonic of the opcode table, without its operand. -/
inductive Mnemonic where
  | EV_BYTE | EV_EMPTY | NOP | START | STOP | SET_ENG | GET_DATA | GET_STATUS | CLR_WARN
  | BUF_CLR | BUF_PUSH | DEC_FW | DEC_MAC
  deriving DecidableEq, Repr

/-- The row of the opcode table an instruction stands for. -/
def Instr.mnemonic : Instr → Mnemonic
  | .evByte _ => .EV_BYTE
  | .evEmpty => .EV_EMPTY
  | .nop => .NOP
  | .start => .START
  | .stop => .STOP
  | .setEng _ => .SET_ENG
  | .getData => .GET_DATA
  | .getStatus => .GET_STATUS
  | .clrWarn _ => .CLR_WARN
  | .bufClr => .BUF_CLR
  | .bufPush _ => .BUF_PUSH
  | .decFw => .DEC_FW
  | .decMac => .DEC_MAC

/-- One row of the opcode map: a word `w` selects the row when `w` and-ed with `mask` is `pattern` (R105). -/
structure CommandRow where
  mnemonic : Mnemonic
  pattern : CommandWord
  mask : CommandWord
  deriving DecidableEq, Repr

/-- Does a command word select a row (R105)? -/
def CommandRow.selects (r : CommandRow) (w : CommandWord) : Bool := w &&& r.mask = r.pattern

/-- The match and mask columns of R105, kept beside the decoder so that the two can be compared. -/
def commandRows : List CommandRow :=
  [⟨.NOP, 0x000, 0xFFF⟩, ⟨.START, 0x100, 0xFFF⟩, ⟨.STOP, 0x200, 0xFFF⟩,
    ⟨.SET_ENG, 0x300, 0xFFE⟩, ⟨.GET_DATA, 0x400, 0xFFF⟩, ⟨.GET_STATUS, 0x500, 0xFFF⟩,
    ⟨.CLR_WARN, 0x600, 0xF00⟩, ⟨.BUF_CLR, 0x700, 0xFFF⟩, ⟨.BUF_PUSH, 0x800, 0xF00⟩,
    ⟨.DEC_FW, 0x900, 0xFFF⟩, ⟨.DEC_MAC, 0xA00, 0xFFF⟩]

/-- Is the number a legal command word? -/
def isLegalCommand (w : Nat) : Bool :=
  w < 4096 && (decodeCommand (BitVec.ofNat 12 w)).isOk

/-- The port word that a table row's number stands for. A width of at most 9 bits names the event port
and one of at most 12 bits the command port. Rounded up to whole bytes both formats have 16 bits and
the number alone does not say which port it is for: a legal command word is read as one, any other
number below 512 as an event word (notes/assumptions/11.md, DESIGN CHOICE; the machine itself never
guesses, its two ports are separate). -/
def tablePortWord (nbits w : Nat) : Option PortWord :=
  if nbits ≤ 9 then (if w < 512 then some (.event (BitVec.ofNat 9 w)) else none)
  else if nbits ≤ 12 then (if w < 4096 then some (.command (BitVec.ofNat 12 w)) else none)
  else if isLegalCommand w then some (.command (BitVec.ofNat 12 w))
  else if w < 512 then some (.event (BitVec.ofNat 9 w))
  else none

/-- The instruction the decoder reads from a table row's number. -/
def decodeTableWord (nbits w : Nat) : Option Instr :=
  match tablePortWord nbits w with
  | some pw => (decode pw).toOption
  | none => none

end Sys2Proof
end

