-- ==== Sys2Proof/Machine/State.lean ====
section
/-! DEFINITION. The state record `S` of the FSD (spec/10_state.md R30 to R55) as plain data, the
inputs and outputs the model keeps beside it, the reasons a step can stop, and the state after reset.
The elements of `S` have the spec's names. -/

namespace Sys2Proof.Machine

/-- `FSM`, 2 bits with three values (R33); code 3 is no value of it. -/
inductive Fsm where
  /-- code 0, the source's `Stopped` -/
  | idle
  /-- code 1, searching for a header -/
  | hunt
  /-- code 2, collecting a frame -/
  | collect
  deriving DecidableEq, Repr

/-- A window entry, 9 bits: `v` (bit 8) is 1 when it holds a byte, `d` (bits 7:0) is the byte (R31). -/
structure Entry where
  v : Bool
  d : Byte
  deriving DecidableEq, Repr

/-- The sliding window: `w0` is `WIN[0]`, the oldest entry, `w3` is `WIN[3]`, the newest (R31). -/
structure Window where
  w0 : Entry
  w1 : Entry
  w2 : Entry
  w3 : Entry
  deriving DecidableEq, Repr

/-- A window entry that holds no byte (R31). -/
def Entry.hole : Entry := ⟨false, 0⟩

/-- `Holes`, the window of four holes (R32). -/
def Window.holes : Window := ⟨Entry.hole, Entry.hole, Entry.hole, Entry.hole⟩

/-- The frame buffer `FB`, a byte memory of `BUF_CAP` cells (R70): the listed cells in rising address
order. An unlisted address reads as no value: its contents are unspecified (R55, U6), so a read of it
stops (notes/assumptions/6.md, DESIGN CHOICE, safe). -/
abbrev Memory := List Host.Cell

/-- Canonical form: addresses strictly rising. No entry can equal what an unlisted address reads as,
since that is no value. -/
abbrev Memory.wf (m : Memory) : Prop := m.Pairwise fun x y => x.1 < y.1

/-- The two gate arrays of an engineering reading, `MG[0..8]` and `SG[0..8]` (R45). -/
structure Gates where
  MG : Vector Byte 9
  SG : Vector Byte 9
  deriving DecidableEq, Repr

/-- A reading, the source's Decoded Reading (R44); the arrays are present or absent together (R45). -/
structure Reading where
  TT : Byte
  MD : Half
  ME : Byte
  SD : Half
  SE : Byte
  DD : Byte
  gates : Option Gates
  deriving DecidableEq, Repr

/-- The registers of the Shared Reading Slot (R30, R44, R45). -/
structure Slot where
  TT : Byte
  MD : Half
  ME : Byte
  SD : Half
  SE : Byte
  DD : Byte
  GATES_VALID : Bool
  MG : Vector Byte 9
  SG : Vector Byte 9
  deriving DecidableEq, Repr

/-- The seven warnings W0 to W6 (R291). -/
inductive Warning where
  | csumMismatch
  | modeDesync
  | baudSuspect
  | emptyRead
  | frameAbort
  | ttInvalid
  | opIgnored
  deriving DecidableEq, Repr

/-- The four faults F0 to F3 of the `FAULT` register (R292). They are conditions of the FSD, after which
it goes on, and not reasons for the model to stop (those are `Fault`, below). -/
inductive HostFault where
  | illegalCmd
  | busy
  | bufOvf
  | decPrecond
  deriving DecidableEq, Repr

/-- A signal (R13). A warning's signal has the warning's name, a fault's is `FAULT_<name>` (R11). -/
inductive Signal where
  | sync
  | publish
  | started
  | stopped
  | warning (w : Warning)
  | fault (f : HostFault)
  deriving DecidableEq, Repr

/-- The host-visible registers 0 to 6, in number order (R48). -/
structure StatusRegs where
  CTRL : BitVec 8
  STATUS : BitVec 8
  WARN : BitVec 8
  FAULT : BitVec 8
  FAILCNT : Nat
  CSUM_CNT : Nat
  BUF_LEN : Nat
  deriving DecidableEq, Repr

/-- The response of a host command (R107). -/
inductive Response where
  /-- R107's `unit`: the command has no response -/
  | unit
  /-- GET_DATA on an empty slot -/
  | empty
  /-- GET_DATA on a filled slot -/
  | reading (r : Reading)
  /-- GET_STATUS -/
  | status (r : StatusRegs)
  /-- R107's `none`: a refused DEC_FW or DEC_MAC -/
  | noFields
  /-- DEC_FW; `minor` is most significant byte first -/
  | fw (majorHigh majorLow : Byte) (minor : List Byte)
  /-- DEC_MAC, in wire order -/
  | mac (m0 m1 m2 m3 m4 m5 : Byte)
  deriving DecidableEq, Repr

/-- Who moves next (R12): the stream side, the host side, or the reset input, which is outside the two
step kinds (R330). -/
inductive Turn where
  | event
  | host
  | reset
  deriving DecidableEq, Repr

/-- Why the machine stops with a fault. The FSD itself never stops (R293). -/
inductive Fault where
  /-- A store to an address outside `FB[0..BUF_CAP-1]`, which does not exist (R70). Raised by EV_BYTE and
  BUF_PUSH, only in a state no run reaches, where `BUF_LEN` is above `BUF_CAP`. Safe: the model stops. -/
  | noBufferAddress (a : Nat)
  /-- A read of a byte of `FB` that holds no written byte, or beyond `BUF_LEN` (R72). Raised by EV_BYTE on a
  frame's last byte, DEC_FW and DEC_MAC, only in a state no run reaches. Safe: the model stops. -/
  | undefinedBufferRead
  deriving DecidableEq, Repr

/-- Why the model gives a step no meaning. -/
inductive Refusal where
  /-- Raised by exec's arm of an instruction that has no meaning yet. Safe. -/
  | notModelled (mnemonic : String)
  /-- The parameter record is not well-formed: R8, "the model refuses to run with a record that is not
  well-formed". Raised by every step. Safe. -/
  | paramsNotWellFormed
  /-- A trace with an `S:` line where `FSM` is `IDLE`: R121, "not a run of the machine". Raised by the trace
  runner of Sys2Proof/Machine/Trace.lean only, never by exec or step. Safe. -/
  | traceNotARun
  deriving DecidableEq, Repr

/-- The whole state: the parameter record, the elements of `S` (R30), the inputs not yet taken and the
outputs of the latest step. -/
structure State where
  /-- the parameter record `P` (R6), the model's own field: fixed, written by no step (R51, R89(c)) -/
  P : Params
  /-- control state (R33) -/
  FSM : Fsm
  /-- stop requested, not yet honoured (R36) -/
  STOP_REQ : Bool
  /-- the mode flag (R37) -/
  ENG_MODE : Bool
  /-- mode of the frame in flight (R38) -/
  ENG_LATCH : Bool
  /-- sliding window (R31) -/
  WIN : Window
  /-- valid bytes in `FB` (R34) -/
  BUF_LEN : Nat
  /-- frame buffer (R70) -/
  FB : Memory
  /-- consecutive failed reads, `CNT_W` bits (R39) -/
  FAILCNT : Nat
  /-- trailer mismatches seen, `CNT_W` bits (R40) -/
  CSUM_CNT : Nat
  /-- sticky warning bits (R41) -/
  WARN : BitVec 8
  /-- sticky fault bits (R42) -/
  FAULT : BitVec 4
  /-- the slot holds a reading (R43) -/
  SLOT_VALID : Bool
  /-- the slot's registers (R44, R45) -/
  SLOT : Slot
  /-- the event stream's items not yet taken, head first (R50); the stream side's, not part of `S` -/
  stream : List EventWord
  /-- the host's commands not yet issued, in issue order (R86(b)); the host side's, not part of `S` -/
  commands : List CommandWord
  /-- the interleaving: who moves next, then after that (R12, R86); not part of `S` -/
  schedule : List Turn
  /-- the signals of the latest step, in the order emitted (R13); an output, read by no rule -/
  signals : List Signal
  /-- the response of the latest step, if it was a host step (R107); an output, read by no rule -/
  response : Option Response
  deriving DecidableEq, Repr

/-- The slot's registers at reset. `GATES_VALID` is 0 (R55); the data registers are unspecified by R55 and
hold zero here (notes/assumptions/7.md, DESIGN CHOICE). -/
def Slot.reset : Slot where
  TT := 0
  MD := 0
  ME := 0
  SD := 0
  SE := 0
  DD := 0
  GATES_VALID := false
  MG := Vector.replicate 9 0
  SG := Vector.replicate 9 0

/-- The state right after reset of an FSD whose parameter record is `P` (R55, R331), with no input
waiting and nothing output. -/
def State.resetWith (P : Params) : State where
  P := P
  FSM := .idle
  STOP_REQ := false
  ENG_MODE := false
  ENG_LATCH := false
  WIN := Window.holes
  BUF_LEN := 0
  FB := []
  FAILCNT := 0
  CSUM_CNT := 0
  WARN := 0
  FAULT := 0
  SLOT_VALID := false
  SLOT := Slot.reset
  stream := []
  commands := []
  schedule := []
  signals := []
  response := none

/-- The machine right after reset. A closed state needs a record: it is `P_TEST` (R9), the one record the
spec prints (notes/assumptions/1.md, DESIGN CHOICE). -/
def State.reset : State := State.resetWith Params.pTest

end Sys2Proof.Machine
end

