-- ==== Sys2Proof/Machine/Operands.lean ====
section
/-! DEFINITION. How operands are read: the window's shift and the header comparison, byte fields of a
frame, the 16-bit assembly, the trailer and signature comparisons, the extraction of a reading, and
the target-type mapping (spec/00_scope.md R10, R11; spec/10_state.md R32; spec/20_memory.md R73 to
R76; spec/30_encoding.md R110 to R118; spec/41_collect_decode.md R184, R185). -/

namespace Sys2Proof.Machine

/-- `Shift(W, x)`: the oldest entry is dropped (R32). -/
def Window.shift (W : Window) (x : Entry) : Window := ⟨W.w1, W.w2, W.w3, x⟩

/-- `Entry(EV_BYTE b)` (R32); `Entry(EV_EMPTY)` is `Entry.hole`. -/
def Entry.byte (b : Byte) : Entry := ⟨true, b⟩

/-- Does an entry hold this byte? A hole never does, whatever the byte is (R117). -/
def Entry.holds (x : Entry) (b : Byte) : Bool := x.v && x.d == b

/-- `HeaderMatch(W)` (R117): the oldest entry against the first header byte (R76). -/
def headerMatch (P : Params) (W : Window) : Bool :=
  W.w0.holds P.HDR_TLM.b0 && W.w1.holds P.HDR_TLM.b1 && W.w2.holds P.HDR_TLM.b2 &&
    W.w3.holds P.HDR_TLM.b3

/-- `F[i]` of a byte sequence. Every offset a rule reads lies inside the frame by `WF(P)`, so the 0 that
makes this total is never delivered (notes/assumptions/14.md). -/
def byteAt (F : List Byte) (i : Nat) : Byte := F.getD i 0

/-- The `n` bytes from offset `a`: `MemRead(a, n)` on a byte sequence (R11). -/
def slice (F : List Byte) (a n : Nat) : List Byte := (F.drop a).take n

/-- `le16`: the byte at the lower offset is the less significant, `lo + 256 * hi` (R11, R73, R114). -/
def le16 (lo hi : Byte) : Half := hi ++ lo

/-- The 2-byte distance at offset `a` (R114). -/
def halfAt (F : List Byte) (a : Nat) : Half := le16 (byteAt F a) (byteAt F (a + 1))

/-- `TrailerOk(F, L, T)`: the last 4 bytes equal the constant, in wire order (R115). -/
def trailerOk (F : List Byte) (L : Nat) (T : Marker) : Bool := slice F (L - 4) 4 == T.toList

/-- Does a byte sequence start with a marker? (R264) -/
def startsWith (F : List Byte) (H : Marker) : Bool := slice F 0 4 == H.toList

/-- `EngSig(F)`: the bytes at `ENG_SIG_OFF` equal the signature (R116). -/
def engSig (P : Params) (F : List Byte) : Bool :=
  slice F P.ENG_SIG_OFF P.ENG_SIG.length == P.ENG_SIG

/-- A gate array: element `i` is the byte at offset `a + i` (R111). -/
def gateArray (F : List Byte) (a : Nat) : Vector Byte 9 := Vector.ofFn fun i => byteAt F (a + i)

/-- The gate arrays of a frame: present exactly when it was collected in engineering mode (R185). -/
def extractGates (P : Params) (latch : Bool) (F : List Byte) : Option Gates :=
  if latch then some ⟨gateArray F P.OFF_MG, gateArray F P.OFF_SG⟩ else none

/-- `Extract(F)` (R184, R185). No value is range-checked. -/
def extract (P : Params) (latch : Bool) (F : List Byte) : Reading where
  TT := byteAt F P.OFF_TT
  MD := halfAt F P.OFF_MD
  ME := byteAt F P.OFF_ME
  SD := halfAt F P.OFF_SD
  SE := byteAt F P.OFF_SE
  DD := byteAt F P.OFF_DD
  gates := extractGates P latch F

/-- A target-type code above 3 is reserved (R118, R184). -/
def reservedTargetType (c : Byte) : Bool := 3 < c.toNat

/-- The meaning of a target-type code (R118). -/
inductive TargetType where
  | noTarget
  | moving
  | static
  | movingAndStatic
  | invalid
  deriving DecidableEq, Repr

/-- `TargetType(c)` (R118): for whoever reads the slot; the FSD keeps the raw byte (R44). -/
def targetType (c : Byte) : TargetType :=
  match c.toNat with
  | 0 => .noTarget
  | 1 => .moving
  | 2 => .static
  | 3 => .movingAndStatic
  | _ => .invalid

/-- What GET_DATA delivers of the slot's registers: the arrays only when `GATES_VALID` is 1 (R45, R224). -/
def Slot.reading (S : Slot) : Reading where
  TT := S.TT
  MD := S.MD
  ME := S.ME
  SD := S.SD
  SE := S.SE
  DD := S.DD
  gates := if S.GATES_VALID then some ⟨S.MG, S.SG⟩ else none

/-- The slot after publishing a reading (R186): every register is replaced, but the array registers stay
as they were when the reading has no arrays. -/
def Slot.publish (S : Slot) (r : Reading) : Slot where
  TT := r.TT
  MD := r.MD
  ME := r.ME
  SD := r.SD
  SE := r.SE
  DD := r.DD
  GATES_VALID := r.gates.isSome
  MG := (r.gates.map Gates.MG).getD S.MG
  SG := (r.gates.map Gates.SG).getD S.SG

end Sys2Proof.Machine
end

