-- ==== Sys2Proof/Machine/Flags.lean ====
section
/-! DEFINITION. Flag and counter computations: the bit positions of `WARN` and `FAULT`
(spec/10_state.md R41, R42), the saturating increment (spec/00_scope.md R11), and the composition of
the host-visible registers (R48). -/

namespace Sys2Proof.Machine

/-- The code of a warning is its bit number in `WARN` (R41, R291). -/
def Warning.code : Warning → Nat
  | .csumMismatch => 0
  | .modeDesync => 1
  | .baudSuspect => 2
  | .emptyRead => 3
  | .frameAbort => 4
  | .ttInvalid => 5
  | .opIgnored => 6

/-- The `WARN` bit of a warning. -/
def Warning.bit (w : Warning) : BitVec 8 := 1#8 <<< w.code

/-- The code of a fault is its bit number in `FAULT` (R42, R292). -/
def HostFault.code : HostFault → Nat
  | .illegalCmd => 0
  | .busy => 1
  | .bufOvf => 2
  | .decPrecond => 3

/-- The `FAULT` bit of a fault. -/
def HostFault.bit (f : HostFault) : BitVec 4 := 1#4 <<< f.code

/-- `sat_inc(c)` for a `W`-bit counter (R11). -/
def satInc (W c : Nat) : Nat := if c = 2 ^ W - 1 then c else c + 1

/-- The numeric code of a control state (R33). -/
def Fsm.code : Fsm → BitVec 2
  | .idle => 0
  | .hunt => 1
  | .collect => 2

/-- A 1-bit value at bit `n` of an 8-bit register. -/
def flagAt (v : Bool) (n : Nat) : BitVec 8 := (BitVec.ofBool v).setWidth 8 <<< n

/-- Register 0, `CTRL`: bit 0 is `ENG_MODE`, bits 7:1 read 0 (R48, R225). -/
def State.ctrl (s : State) : BitVec 8 := (BitVec.ofBool s.ENG_MODE).setWidth 8

/-- `BAUD_NOW`, computed from `FAILCNT` when read (R48). -/
def State.baudNow (s : State) : Bool := Config.FAIL_THRESH < s.FAILCNT

/-- Register 1, `STATUS` (R48, R225). -/
def State.status (s : State) : BitVec 8 :=
  s.FSM.code.setWidth 8 ||| flagAt s.STOP_REQ 2 ||| flagAt s.SLOT_VALID 3 |||
    flagAt s.SLOT.GATES_VALID 4 ||| flagAt s.baudNow 5

/-- The registers 0 to 6 (R48). -/
def State.statusRegs (s : State) : StatusRegs where
  CTRL := s.ctrl
  STATUS := s.status
  WARN := s.WARN
  FAULT := s.FAULT.setWidth 8
  FAILCNT := s.FAILCNT
  CSUM_CNT := s.CSUM_CNT
  BUF_LEN := s.BUF_LEN

end Sys2Proof.Machine
end

