-- ==== Sys2Proof/Machine/Ops.lean ====
section
/-! DEFINITION. The operations every meaning is written with: the frame buffer's reads and stores
(spec/20_memory.md R70 to R72), raising a condition and clearing it again (spec/60_exceptions.md R298,
R300), the two counters (spec/40_sync.md R140, spec/41_collect_decode.md R182), `EnterHunt` (R143),
the reset input (spec/70_reset_and_hazards.md R330), and the frame of every step (R12, R13, R8). -/

namespace Sys2Proof.Machine

/-- What a step of this machine answers. -/
abbrev Result := Host.Outcome State Fault Refusal

/-! ### The frame buffer -/

/-- The byte at an address; none where nothing is listed. -/
def Memory.read : Memory → Nat → Option Byte
  | [], _ => none
  | (k, v) :: m, a => if k = a then some v else Memory.read m a

/-- `MemWrite(a, 1, b)` (R11), keeping the canonical form. -/
def Memory.write : Memory → Nat → Byte → Memory
  | [], a, b => [(a, b)]
  | (k, v) :: m, a, b =>
    if a < k then (a, b) :: (k, v) :: m
    else if k = a then (a, b) :: m
    else (k, v) :: Memory.write m a b

/-- The bytes of a list stored at consecutive addresses from `a`. -/
def Memory.writeList : Memory → Nat → List Byte → Memory
  | m, _, [] => m
  | m, a, b :: bs => Memory.writeList (Memory.write m a b) (a + 1) bs

/-- The `n` bytes from address `a`; none if one of them has no value. -/
def Memory.readList (m : Memory) : Nat → Nat → Option (List Byte)
  | _, 0 => some []
  | a, n + 1 =>
    match m.read a, m.readList (a + 1) n with
    | some b, some bs => some (b :: bs)
    | _, _ => none

/-- `MemRead(a, n)` on the frame buffer, defined only when `a + n <= BUF_LEN` (R11, R72). -/
def State.memRead (s : State) (a n : Nat) : Option (List Byte) :=
  if a + n ≤ s.BUF_LEN then s.FB.readList a n else none

/-- Store bytes into `FB` from address `a`, then go on; an address outside `FB[0..BUF_CAP-1]` does not
exist (R70). -/
def storeThen (s : State) (a : Nat) (bs : List Byte) (k : State → Result) : Result :=
  if a + bs.length ≤ s.P.BUF_CAP then k { s with FB := s.FB.writeList a bs }
  else .fault (.noBufferAddress (a + bs.length - 1))

/-! ### Conditions: entry and return -/

/-- `emit S` (R11, R13). -/
def emit (x : Signal) (s : State) : State := { s with signals := s.signals ++ [x] }

/-- `raise W.<name>`: set the sticky bit and emit the signal of the same name (R11, R298). -/
def raiseWarning (w : Warning) (s : State) : State :=
  emit (.warning w) { s with WARN := s.WARN ||| w.bit }

/-- `raise F.<name>`: set the sticky bit and emit `FAULT_<name>` (R11, R292, R298). Nothing is saved, no
mode changes and nothing transfers control. -/
def raiseFault (f : HostFault) (s : State) : State :=
  emit (.fault f) { s with FAULT := s.FAULT ||| f.bit }

/-- The only "return" there is: warning bits cleared under a mask (R300, R226). -/
def clearWarnings (m : Byte) (s : State) : State := { s with WARN := s.WARN &&& ~~~m }

/-! ### Counters -/

/-- A byte was read: the failure counter is reset (R140). -/
def countByte (s : State) : State := { s with FAILCNT := 0 }

/-- A read failed: the counter goes up, and the new value above the threshold raises the warning (R140). -/
def countEmpty (s : State) : State :=
  let c := satInc s.P.CNT_W s.FAILCNT
  let t := { s with FAILCNT := c }
  if Config.FAIL_THRESH < c then raiseWarning .baudSuspect t else t

/-- A trailer mismatch: counted and warned of, and nothing more (R182, R266). -/
def countMismatch (s : State) : State :=
  raiseWarning .csumMismatch { s with CSUM_CNT := satInc s.P.CNT_W s.CSUM_CNT }

/-- The advisory trailer check: it never rejects (R182, R189, R266). -/
def checkTrailer (F : List Byte) (L : Nat) (T : Marker) (s : State) : State :=
  if trailerOk F L T then s else countMismatch s

/-! ### Control -/

/-- `EnterHunt` (R143). -/
def enterHunt (s : State) : State := { s with FSM := .hunt, WIN := Window.holes, BUF_LEN := 0 }

/-- The length of the frame in flight, `FrameLen(ENG_LATCH)` (R7, R38). -/
def State.frameLen (s : State) : Nat := s.P.frameLen s.ENG_LATCH

/-- The reset input (R330): every element of `S` takes its reset value at once; the parameter record, the
stream and the host's commands are not the FSD's to reset and stay. -/
def applyReset (s : State) : State :=
  { State.resetWith s.P with
    stream := s.stream
    commands := s.commands
    schedule := s.schedule }

/-! ### The frame of a step -/

/-- A step's outputs are its own: those of the step before are gone (R13, R107). -/
def withOutputs (r : Option Response) (s : State) : State := { s with signals := [], response := r }

/-- The answer to the host (R107). -/
def respond (r : Response) (s : State) : State := { s with response := some r }

/-- The model refuses to run with a record that is not well-formed (R8). -/
def whenWellFormed (s : State) (r : Result) : Result :=
  if s.P.wf then r else .refused .paramsNotWellFormed

/-- An event step yields signals and no response (R12, R13). -/
def eventStep (s : State) (k : State → Result) : Result := whenWellFormed s (k (withOutputs none s))

/-- A host step yields signals and one response, `unit` unless the command gives another (R107, R228). -/
def hostStep (s : State) (k : State → Result) : Result :=
  whenWellFormed s (k (withOutputs (some .unit) s))

/-- The reset input's step (R330). -/
def resetStep (s : State) : Result := whenWellFormed s (.next (applyReset s))

/-- No side can move: the machine waits (R147, R149, R315). -/
def waitStep (s : State) : Result := whenWellFormed s (.next (withOutputs none s))

end Sys2Proof.Machine
end

