-- ==== Sys2Proof/Machine/AckDecode.lean ====
section
/-! DEFINITION. The meanings of the frame buffer commands and of acknowledgment field extraction
(spec/43_ack_decode.md): BUF_CLR, BUF_PUSH, DEC_FW, DEC_MAC. -/

namespace Sys2Proof.Machine

/-- The four commands act only while `FSM` is `IDLE`; otherwise `F.BUSY` and nothing else (R260). -/
def whenIdle (s : State) (k : State → Result) : Result :=
  if s.FSM = .idle then k s else .next (raiseFault .busy s)

/-- BUF_CLR: the bytes are not erased, only no longer readable (R261). -/
def execBufClr (s : State) : Result :=
  hostStep s fun s => whenIdle s fun s => .next { s with BUF_LEN := 0 }

/-- BUF_PUSH b: the test for `BUSY` comes first; a byte pushed into a full buffer is lost (R262). -/
def execBufPush (b : Byte) (s : State) : Result :=
  hostStep s fun s => whenIdle s fun s =>
    if s.BUF_LEN = s.P.BUF_CAP then .next (raiseFault .bufOvf s)
    else storeThen s s.BUF_LEN [b] fun s => .next { s with BUF_LEN := s.BUF_LEN + 1 }

/-- A decode command whose precondition is false: the footer is not checked (R264). -/
def refuseDecode (s : State) : Result := .next (raiseFault .decPrecond s)

/-- The parts of `DecPre(need)` that need no byte of `FB` (R264). -/
def decFits (need : Nat) (s : State) : Bool := 8 ≤ s.BUF_LEN && need ≤ s.BUF_LEN - 4

/-- A decode command: `IDLE`, then the precondition (R264), then the advisory footer check (R266), then
the answer computed from the valid bytes of `FB`. -/
def decodeAck (need : Nat) (answer : List Byte → Response) (s : State) : Result :=
  whenIdle (respond .noFields s) fun s =>
    if decFits need s then
      match s.memRead 0 s.BUF_LEN with
      | none => .fault .undefinedBufferRead
      | some F =>
        if startsWith F s.P.HDR_ACK then
          .next (respond (answer F) (checkTrailer F s.BUF_LEN s.P.TRL_ACK s))
        else refuseDecode s
    else refuseDecode s

/-- The firmware fields: little-endian on the wire, delivered most significant byte first (R74, R265). -/
def firmwareFields (P : Params) (F : List Byte) : Response :=
  .fw (byteAt F (P.OFF_FW_MAJ + 1)) (byteAt F P.OFF_FW_MAJ)
    (slice F P.OFF_FW_MIN P.FW_MIN_LEN).reverse

/-- The address field, in wire order (R75, R267). -/
def addressField (P : Params) (F : List Byte) : Response :=
  .mac (byteAt F P.OFF_MAC) (byteAt F (P.OFF_MAC + 1)) (byteAt F (P.OFF_MAC + 2))
    (byteAt F (P.OFF_MAC + 3)) (byteAt F (P.OFF_MAC + 4)) (byteAt F (P.OFF_MAC + 5))

/-- DEC_FW (R265). -/
def execDecFw (s : State) : Result :=
  hostStep s fun s => decodeAck s.P.needFw (firmwareFields s.P) s

/-- DEC_MAC (R267). -/
def execDecMac (s : State) : Result :=
  hostStep s fun s => decodeAck s.P.needMac (addressField s.P) s

end Sys2Proof.Machine
end

