-- ==== Sys2Proof/Machine/Events.lean ====
section
/-! DEFINITION. The meanings of the two stream events, EV_BYTE and EV_EMPTY, in HUNT
(spec/40_sync.md) and in COLLECT (spec/41_collect_decode.md). -/

namespace Sys2Proof.Machine

/-! ### HUNT -/

/-- Header match action (R146): the mode is latched and the header copied into `FB[0..3]`. -/
def matchHeader (s : State) : Result :=
  storeThen s 0 s.P.HDR_TLM.toList fun s =>
    .next (emit .sync { s with ENG_LATCH := s.ENG_MODE, BUF_LEN := 4, FSM := .collect })

/-- EV_BYTE b in HUNT (R141). -/
def huntByte (b : Byte) (s : State) : Result :=
  let W := s.WIN.shift (.byte b)
  let t := { countByte s with WIN := W }
  if headerMatch s.P W then matchHeader t else .next t

/-- EV_EMPTY in HUNT: the placeholder takes a place in the window (R142). -/
def huntEmpty (s : State) : Result :=
  .next { countEmpty s with WIN := s.WIN.shift .hole }

/-! ### Frame completion -/

/-- The engineering-signature heuristic: the mode is set and the frame dropped (R183). -/
def dropFrame (s : State) : State :=
  enterHunt (raiseWarning .modeDesync { s with ENG_MODE := true })

/-- A reserved target-type code is published and warned of (R184). -/
def checkTargetType (c : Byte) (s : State) : State :=
  if reservedTargetType c then raiseWarning .ttInvalid s else s

/-- `Publish(r)` (R186). -/
def publish (r : Reading) (s : State) : State :=
  emit .publish { s with SLOT := s.SLOT.publish r, SLOT_VALID := true }

/-- A pending stop is honoured: the one way into `IDLE` but reset (R186). -/
def honourStop (s : State) : State :=
  emit .stopped { s with FSM := .idle, STOP_REQ := false, BUF_LEN := 0 }

/-- Next state after a publication: a pending stop is looked at here and nowhere else (R186). -/
def afterPublish (s : State) : State := if s.STOP_REQ then honourStop s else enterHunt s

/-- A frame that is not dropped: trailer check, extraction, target-type check, publication (R180). -/
def deliverFrame (F : List Byte) (s : State) : State :=
  let r := extract s.P s.ENG_LATCH F
  afterPublish (publish r (checkTargetType r.TT (checkTrailer F s.frameLen s.P.TRL_TLM s)))

/-- `Complete(F, L)`, in R180's order: the signature test first. -/
def completeFrame (F : List Byte) (s : State) : State :=
  if !s.ENG_LATCH && engSig s.P F then dropFrame s else deliverFrame F s

/-! ### COLLECT -/

/-- After the byte at `BUF_LEN` is stored: count it, or complete the frame in the same step (R171). -/
def afterStore (s : State) : Result :=
  if s.BUF_LEN + 1 < s.frameLen then .next { s with BUF_LEN := s.BUF_LEN + 1 }
  else
    match s.FB.readList 0 s.frameLen with
    | none => .fault .undefinedBufferRead
    | some F => .next (completeFrame F s)

/-- EV_BYTE b in COLLECT: the byte is stored whatever its value (R171). -/
def collectByte (b : Byte) (s : State) : Result := storeThen (countByte s) s.BUF_LEN [b] afterStore

/-- EV_EMPTY in COLLECT: the partial frame is discarded (R173). -/
def collectEmpty (s : State) : Result :=
  .next (enterHunt (raiseWarning .frameAbort (countEmpty s)))

/-! ### The two events -/

/-- EV_BYTE b (R141 in HUNT, R171 in COLLECT). In `IDLE` the event step is not enabled and nothing in `S`
changes (R149); the item stays in the stream (Sys2Proof/Machine/Ports.lean). -/
def execEvByte (b : Byte) (s : State) : Result :=
  eventStep s fun s =>
    match s.FSM with
    | .idle => .next s
    | .hunt => huntByte b s
    | .collect => collectByte b s

/-- EV_EMPTY (R142 in HUNT, R173 in COLLECT); in `IDLE` not enabled (R149). -/
def execEvEmpty (s : State) : Result :=
  eventStep s fun s =>
    match s.FSM with
    | .idle => .next s
    | .hunt => huntEmpty s
    | .collect => collectEmpty s

end Sys2Proof.Machine
end

