-- ==== Sys2Proof/Machine/HostControl.lean ====
section
/-! DEFINITION. The meanings of the host commands for control, status and the reading slot
(spec/42_host_ops.md): NOP, START, STOP, SET_ENG, GET_DATA, GET_STATUS, CLR_WARN, and of an illegal
command word. -/

namespace Sys2Proof.Machine

/-- NOP (R220). -/
def execNop (s : State) : Result := hostStep s fun s => .next s

/-- START: effective only in `IDLE` (R221). -/
def execStart (s : State) : Result :=
  hostStep s fun s =>
    if s.FSM = .idle then .next (emit .started (enterHunt { s with STOP_REQ := false }))
    else .next (raiseWarning .opIgnored s)

/-- STOP only signals; the next publication stops (R223). -/
def execStop (s : State) : Result :=
  hostStep s fun s =>
    if s.FSM = .idle then .next (raiseWarning .opIgnored s) else .next { s with STOP_REQ := true }

/-- SET_ENG v (R222). -/
def execSetEng (v : Bool) (s : State) : Result := hostStep s fun s => .next { s with ENG_MODE := v }

/-- GET_DATA: the whole reading in one step, or `empty` and a warning (R224). -/
def execGetData (s : State) : Result :=
  hostStep s fun s =>
    if s.SLOT_VALID then .next (respond (.reading s.SLOT.reading) s)
    else .next (respond .empty (raiseWarning .emptyRead s))

/-- GET_STATUS: the seven registers (R225). -/
def execGetStatus (s : State) : Result :=
  hostStep s fun s => .next (respond (.status s.statusRegs) s)

/-- CLR_WARN m (R226). -/
def execClrWarn (m : Byte) (s : State) : Result := hostStep s fun s => .next (clearWarnings m s)

/-- A command word that encodes no instruction: refused whole (R106, R227). -/
def execIllegal (s : State) : Result := hostStep s fun s => .next (raiseFault .illegalCmd s)

end Sys2Proof.Machine
end

