-- ==== Sys2Proof/Machine/Dispatch.lean ====
section
/-! DEFINITION. exec: one arm per instruction, each a direct call of its meaning. -/

namespace Sys2Proof.Machine

def exec (i : Instr) (s : State) : Host.Outcome State Fault Refusal :=
  match i with
  | .evByte b => Sys2Proof.Machine.execEvByte b s
  | .evEmpty => Sys2Proof.Machine.execEvEmpty s
  | .nop => Sys2Proof.Machine.execNop s
  | .start => Sys2Proof.Machine.execStart s
  | .stop => Sys2Proof.Machine.execStop s
  | .setEng v => Sys2Proof.Machine.execSetEng v s
  | .getData => Sys2Proof.Machine.execGetData s
  | .getStatus => Sys2Proof.Machine.execGetStatus s
  | .clrWarn m => Sys2Proof.Machine.execClrWarn m s
  | .bufClr => Sys2Proof.Machine.execBufClr s
  | .bufPush b => Sys2Proof.Machine.execBufPush b s
  | .decFw => Sys2Proof.Machine.execDecFw s
  | .decMac => Sys2Proof.Machine.execDecMac s

end Sys2Proof.Machine
end

