-- ==== Sys2Proof/Machine/Ports.lean ====
section
/-! DEFINITION. The two ports: how a step takes its word. An event is taken from the head of the stream
only where event steps are enabled (spec/00_scope.md R12, spec/10_state.md R50, spec/40_sync.md R149);
a host command is taken in every state (R228), and a word that encodes no instruction is refused
(R227). -/

namespace Sys2Proof.Machine

/-- What the word at the event port does. -/
def runEventWord (w : EventWord) (s : State) : Result := exec (decodeEvent w) s

/-- What the word at the command port does. -/
def runCommandWord (w : CommandWord) (s : State) : Result :=
  match decodeCommand w with
  | .ok i => exec i s
  | .error _ => execIllegal s

/-- Event steps are enabled in `HUNT` and `COLLECT` only (R12, R149). -/
def State.eventsEnabled (s : State) : Bool := s.FSM != .idle

/-- The stream side's turn: it consumes exactly the head item; while `IDLE`, or when the stream has
nothing, no event is taken (R12, R147, R149). -/
def eventTurn (s : State) : Result :=
  match s.stream with
  | [] => waitStep s
  | w :: ws => if s.eventsEnabled then runEventWord w { s with stream := ws } else waitStep s

/-- The host side's turn: the host issues its next command, if it has one (R12, R86(b), R228). -/
def hostTurn (s : State) : Result :=
  match s.commands with
  | [] => waitStep s
  | w :: ws => runCommandWord w { s with commands := ws }

/-- The machine made ready to take an event at the very next step: where it is `IDLE` no event step is
enabled, so the search is entered as START enters it (notes/assumptions/11.md). -/
def readyForEvent (s : State) : State := if s.eventsEnabled then s else enterHunt s

/-- A port word placed where the next step takes its word. -/
def placeWord (s : State) : PortWord → State
  | .event w =>
    let t := readyForEvent s
    { t with stream := w :: t.stream, schedule := .event :: t.schedule }
  | .command w => { s with commands := w :: s.commands, schedule := .host :: s.schedule }

/-- The port word of a table row's number; a number that is a word of neither format is presented at the
command port, cut to its 12 bits. -/
def fetchWord (nbits w : Nat) : PortWord :=
  (tablePortWord nbits w).getD (.command (BitVec.ofNat 12 w))

end Sys2Proof.Machine
end

