-- ==== Sys2Proof/Machine/Step.lean ====
section
/-! DEFINITION. One step: the schedule says whose turn it is (spec/00_scope.md R12, spec/20_memory.md
R86). With nobody's turn left the machine waits. -/

namespace Sys2Proof.Machine

def step (s : State) : Host.Outcome State Fault Refusal :=
  match s.schedule with
  | [] => waitStep s
  | .event :: ts => eventTurn { s with schedule := ts }
  | .host :: ts => hostTurn { s with schedule := ts }
  | .reset :: ts => resetStep { s with schedule := ts }

/-- `s` with a table row's word where the next step takes its word. -/
def State.withFetchWord (s : State) (nbits w : Nat) : State := placeWord s (fetchWord nbits w)

end Sys2Proof.Machine
end

