-- ==== Sys2Proof/Machine/Format.lean ====
section
/-! DEFINITION. The formatting functions (spec/43_ack_decode.md R270, R271): not hardware, pure
functions of delivered bytes; a string is its list of characters. -/

namespace Sys2Proof.Machine

/-- A digit in hexadecimal, lower case (R270, R271). -/
def hexDigit (n : Nat) : Char := if n < 10 then Char.ofNat (48 + n) else Char.ofNat (87 + n)

/-- A byte as 2 hexadecimal digits, leading zero kept. -/
def hexByte (b : Byte) : List Char := [hexDigit (b.toNat / 16), hexDigit (b.toNat % 16)]

/-- A number in decimal of one digit. -/
def decDigit (n : Nat) : Char := Char.ofNat (48 + n % 10)

/-- A byte in decimal with no padding. -/
def decByte (b : Byte) : List Char :=
  let n := b.toNat
  if n < 10 then [decDigit n]
  else if n < 100 then [decDigit (n / 10), decDigit n]
  else [decDigit (n / 100), decDigit (n / 10), decDigit n]

/-- A byte in decimal, padded with zeros on the left to at least 2 digits. -/
def decByte02 (b : Byte) : List Char := if b.toNat < 10 then '0' :: decByte b else decByte b

/-- `FormatFw(major_high, major_low, minor)` (R270). -/
def formatFw (majorHigh majorLow : Byte) (minor : List Byte) : List Char :=
  'V' :: decByte majorHigh ++ '.' :: decByte02 majorLow ++ '.' :: minor.flatMap hexByte

/-- `FormatMac(m[0..5])` (R271). -/
def formatMac (m0 m1 m2 m3 m4 m5 : Byte) : List Char :=
  hexByte m0 ++ ':' :: hexByte m1 ++ ':' :: hexByte m2 ++ ':' :: hexByte m3 ++ ':' :: hexByte m4 ++
    ':' :: hexByte m5

end Sys2Proof.Machine
end

