-- ==== Sys2Proof/Machine/Reference.lean ====
section
/-! DEFINITION. The event steps as whole functions, transcribed write by write from spec/40_sync.md R152
and spec/41_collect_decode.md R191, which restate the rules that Sys2Proof/Machine/Events.lean follows
one by one; and the addresses an instruction stores to (spec/20_memory.md R71). exec does not call
them: that the two transcriptions agree is a statement. -/

namespace Sys2Proof.Machine

/-- The addresses of `FB` an instruction stores to: the header match the 4 header bytes, a COLLECT byte and
BUF_PUSH the byte at the fill index, and nothing else stores (R71). -/
def storedAddresses (i : Instr) (s : State) : List Nat :=
  match i with
  | .evByte b =>
    match s.FSM with
    | .idle => []
    | .hunt => if headerMatch s.P (s.WIN.shift (.byte b)) then [0, 1, 2, 3] else []
    | .collect => [s.BUF_LEN]
  | .bufPush _ => if s.FSM = .idle ∧ s.BUF_LEN ≠ s.P.BUF_CAP then [s.BUF_LEN] else []
  | .evEmpty | .nop | .start | .stop | .setEng _ | .getData | .getStatus | .clrWarn _ => []
  | .bufClr | .decFw | .decMac => []

/-- `Entry(e)` (R32); the entry of a host command is of no interest and is a hole. -/
def entryOf : Instr → Entry
  | .evByte b => .byte b
  | .evEmpty => .hole
  | .nop | .start | .stop | .setEng _ | .getData | .getStatus | .clrWarn _ => .hole
  | .bufClr | .bufPush _ | .decFw | .decMac => .hole

/-- `FAILCNT` and `WARN[2]` after an event, with the signal, as R152 and R191 write them. -/
def referenceFailures (e : Instr) (s : State) : State :=
  let c := satInc s.P.CNT_W s.FAILCNT
  if e = .evEmpty then
    if 32 < c then
      { s with FAILCNT := c, WARN := s.WARN ||| 0x04, signals := s.signals ++ [.warning .baudSuspect] }
    else { s with FAILCNT := c }
  else { s with FAILCNT := 0 }

/-- `HuntStep(S, e)`, R152 transcribed write by write. -/
def referenceHuntStep (e : Instr) (s : State) : State :=
  let t := referenceFailures e s
  let W : Window := ⟨s.WIN.w1, s.WIN.w2, s.WIN.w3, entryOf e⟩
  let H := s.P.HDR_TLM
  if W = ⟨⟨true, H.b0⟩, ⟨true, H.b1⟩, ⟨true, H.b2⟩, ⟨true, H.b3⟩⟩ then
    { t with
      WIN := W
      ENG_LATCH := s.ENG_MODE
      FB := (((s.FB.write 0 H.b0).write 1 H.b1).write 2 H.b2).write 3 H.b3
      BUF_LEN := 4
      FSM := .collect
      signals := t.signals ++ [.sync] }
  else { t with WIN := W }

/-- The tail of `CollectStep(S, e)`, R191, once the frame `F` of length `L` is whole. -/
def referenceComplete (F : List Byte) (L : Nat) (s : State) : State :=
  let P := s.P
  let at' := fun i => F.getD i 0
  if s.ENG_LATCH = false ∧ (F.drop P.ENG_SIG_OFF).take P.ENG_SIG.length = P.ENG_SIG then
    { s with
      ENG_MODE := true
      WARN := s.WARN ||| 0x02
      signals := s.signals ++ [.warning .modeDesync]
      FSM := .hunt
      WIN := ⟨⟨false, 0⟩, ⟨false, 0⟩, ⟨false, 0⟩, ⟨false, 0⟩⟩
      BUF_LEN := 0 }
  else
    let bad := [at' (L - 4), at' (L - 3), at' (L - 2), at' (L - 1)] ≠ P.TRL_TLM.toList
    let tt := 3 < (at' P.OFF_TT).toNat
    { s with
      CSUM_CNT := if bad then satInc P.CNT_W s.CSUM_CNT else s.CSUM_CNT
      WARN := s.WARN ||| (if bad then 0x01 else 0x00) ||| (if tt then 0x20 else 0x00)
      SLOT :=
        { TT := at' P.OFF_TT
          MD := (at' P.OFF_MD).setWidth 16 + 256 * (at' (P.OFF_MD + 1)).setWidth 16
          ME := at' P.OFF_ME
          SD := (at' P.OFF_SD).setWidth 16 + 256 * (at' (P.OFF_SD + 1)).setWidth 16
          SE := at' P.OFF_SE
          DD := at' P.OFF_DD
          GATES_VALID := s.ENG_LATCH
          MG := if s.ENG_LATCH then Vector.ofFn fun i => at' (P.OFF_MG + i) else s.SLOT.MG
          SG := if s.ENG_LATCH then Vector.ofFn fun i => at' (P.OFF_SG + i) else s.SLOT.SG }
      SLOT_VALID := true
      FSM := if s.STOP_REQ then .idle else .hunt
      STOP_REQ := false
      WIN := if s.STOP_REQ then s.WIN else ⟨⟨false, 0⟩, ⟨false, 0⟩, ⟨false, 0⟩, ⟨false, 0⟩⟩
      BUF_LEN := 0
      signals :=
        s.signals ++ (if bad then [.warning .csumMismatch] else []) ++
          (if tt then [.warning .ttInvalid] else []) ++ [.publish] ++
          (if s.STOP_REQ then [.stopped] else []) }

/-- `CollectStep(S, e)`, R191 transcribed write by write; none where a byte of the frame has no value. -/
def referenceCollectStep (e : Instr) (s : State) : Option State :=
  match e with
  | .evByte b =>
    let t := { s with FAILCNT := 0, FB := s.FB.write s.BUF_LEN b }
    let L := if s.ENG_LATCH then s.P.N + 26 else s.P.N + 8
    if s.BUF_LEN + 1 < L then some { t with BUF_LEN := s.BUF_LEN + 1 }
    else (t.FB.readList 0 L).map fun F => referenceComplete F L t
  | .evEmpty =>
    let t := referenceFailures e s
    some { t with
      WARN := t.WARN ||| 0x10
      signals := t.signals ++ [.warning .frameAbort]
      FSM := .hunt
      WIN := ⟨⟨false, 0⟩, ⟨false, 0⟩, ⟨false, 0⟩, ⟨false, 0⟩⟩
      BUF_LEN := 0 }
  | .nop | .start | .stop | .setEng _ | .getData | .getStatus | .clrWarn _ => none
  | .bufClr | .bufPush _ | .decFw | .decMac => none

end Sys2Proof.Machine
end

