-- ==== Sys2Proof/Machine/Trace.lean ====
section
/-! DEFINITION. The trace syntax (spec/30_encoding.md R121, R122): notation for a program, which is a
host command sequence, an event stream and one chosen interleaving. It has no hardware meaning. -/

namespace Sys2Proof.Machine

/-- One step of a trace: an item of an `S:` line, or an `H:` line (R121). -/
inductive TraceItem where
  | event (w : EventWord)
  | host (w : CommandWord)
  deriving DecidableEq, Repr

/-- A trace, executed from its head (R121). -/
abbrev Trace := List TraceItem

/-- The item `xx` of an `S:` line (R121). -/
def Trace.byte (b : Byte) : TraceItem := .event (eventWord 0 b)

/-- The item `--` of an `S:` line, in the canonical spelling (R121, R103). -/
def Trace.empty : TraceItem := .event (eventWord 1 0)

/-- `S: xx*n` (R122). -/
def Trace.bytes (b : Byte) (n : Nat) : Trace := List.replicate n (Trace.byte b)

/-- `S: --*n` (R122). -/
def Trace.empties (n : Nat) : Trace := List.replicate n Trace.empty

/-- `H: PUSH b0 b1 ... bk`: BUF_CLR, then one BUF_PUSH a byte (R122). -/
def Trace.push (bs : List Byte) : Trace :=
  .host (commandWord 0x7 0) :: bs.map fun b => .host (commandWord 0x8 b)

/-- `H: ENABLE_ENG` and `H: DISABLE_ENG` (R122). -/
def Trace.setEng (v : Bool) : Trace := [.host (commandWord 0x3 (if v then 1 else 0))]

/-- `H: WAIT_IDLE` with `n` polls: GET_STATUS repeated (R122). -/
def Trace.waitIdle (n : Nat) : Trace := List.replicate n (.host (commandWord 0x5 0))

/-- One item of a trace. An event item where `FSM` is `IDLE` is not a run of the machine (R121). -/
def Trace.runItem (x : TraceItem) (s : State) : Result :=
  match x with
  | .event w => if s.eventsEnabled then runEventWord w s else .refused .traceNotARun
  | .host w => runCommandWord w s

/-- A whole trace, top to bottom (R121). -/
def Trace.run : Trace → State → Result
  | [], s => .next s
  | x :: xs, s =>
    match Trace.runItem x s with
    | .next t => Trace.run xs t
    | .fault r => .fault r
    | .refused r => .refused r

/-- A trace as the inputs of a state: each side's items in order, and the schedule that interleaves them
as the trace does (R86, R121). -/
def Trace.load : Trace → State → State
  | [], s => s
  | .event w :: xs, s =>
    let t := Trace.load xs s
    { t with stream := w :: t.stream, schedule := .event :: t.schedule }
  | .host w :: xs, s =>
    let t := Trace.load xs s
    { t with commands := w :: t.commands, schedule := .host :: t.schedule }

end Sys2Proof.Machine
end

