-- ==== Sys2Proof/Safety.lean ====
section
/-! DEFINITION. What counts as a safe state and a safe run, and the relations the statements are written
with: the invariant of spec/10_state.md R52, the states that differ only in unreadable contents
(spec/93_implementation_defined.md U6, U7), and event runs (spec/40_sync.md R145). -/

namespace Sys2Proof.Machine

/-- The state a result goes on in, if it goes on. -/
def Result.next? : Result → Option State
  | .next s => some s
  | .fault _ => none
  | .refused _ => none

/-- A hole has `d = 0` (R31, R52(e)). -/
abbrev Entry.legal (x : Entry) : Prop := x.v = false → x.d = 0

/-- Every hole of a window has `d = 0` (R52(e)). -/
abbrev Window.legal (W : Window) : Prop := W.w0.legal ∧ W.w1.legal ∧ W.w2.legal ∧ W.w3.legal

/-- Every listed cell has an address below `cap` (R70). -/
def Memory.within (m : Memory) (cap : Nat) : Bool := m.all fun c => c.1 < cap

/-- The invariant: R52(a) to (f), with the widths of R30, the form of the memory, and R72's "no rule ever
reads a byte that was not written". -/
structure SafeState (s : State) : Prop where
  /-- the record is well-formed (R8) -/
  params : s.P.wf = true
  /-- R52(a) -/
  hunt : s.FSM = .hunt → s.BUF_LEN = 0
  /-- R52(b), the bounds -/
  collect : s.FSM = .collect → 4 ≤ s.BUF_LEN ∧ s.BUF_LEN < s.frameLen
  /-- R52(b), the header -/
  header : s.FSM = .collect → s.FB.readList 0 4 = some s.P.HDR_TLM.toList
  /-- R52(c) -/
  idle : s.FSM = .idle → s.STOP_REQ = false
  /-- R52(d) -/
  bufLen : s.BUF_LEN ≤ s.P.BUF_CAP
  /-- R52(e) -/
  window : s.WIN.legal
  /-- R52(f); code 3 is no value of `Fsm` -/
  warn : s.WARN[7] = false
  /-- `FAILCNT` has `CNT_W` bits (R39) -/
  failcnt : s.FAILCNT < 2 ^ s.P.CNT_W
  /-- `CSUM_CNT` has `CNT_W` bits (R40) -/
  csumCnt : s.CSUM_CNT < 2 ^ s.P.CNT_W
  /-- the arrays are present only in a filled slot (R43, R45) -/
  slot : s.SLOT.GATES_VALID = true → s.SLOT_VALID = true
  /-- the memory is in canonical form -/
  memory : s.FB.wf
  /-- `FB` has the addresses 0 to `BUF_CAP - 1` (R70) -/
  cells : s.FB.within s.P.BUF_CAP = true
  /-- the valid bytes are written bytes (R34, R72) -/
  filled : ∀ a < s.BUF_LEN, (s.FB.read a).isSome = true

/-- The frame a byte completes in COLLECT: the valid bytes and then the byte (R171). -/
def frameWith (s : State) (b : Byte) : Option (List Byte) :=
  (s.memRead 0 s.BUF_LEN).map fun F => F ++ [b]

/-- The byte completes the frame in flight (R171: `n = FrameLen(ENG_LATCH)`). -/
abbrev completes (s : State) : Prop := s.FSM = .collect ∧ s.BUF_LEN + 1 = s.frameLen

/-- Two states that differ at most in what no rule reads: bytes of `FB` at and above `BUF_LEN` (U6), the
slot's data registers while the slot is empty and the array registers while `GATES_VALID` is 0 (U7). -/
structure SameReadable (s t : State) : Prop where
  rest : { t with FB := s.FB, SLOT := s.SLOT } = s
  bytes : ∀ a < s.BUF_LEN, t.FB.read a = s.FB.read a
  gatesValid : t.SLOT.GATES_VALID = s.SLOT.GATES_VALID
  reading : s.SLOT_VALID = true → t.SLOT.reading = s.SLOT.reading

/-- Events run one after another, with no host step between (R86(a)). -/
def runEvents : List Instr → State → Result
  | [], s => .next s
  | e :: es, s =>
    match exec e s with
    | .next t => runEvents es t
    | .fault r => .fault r
    | .refused r => .refused r

/-- The last 4 events are bytes and equal the header in order (R145). -/
def endsWithHeader (P : Params) (es : List Instr) : Prop :=
  ∃ pre, es = pre ++ P.HDR_TLM.toList.map Instr.evByte

end Sys2Proof.Machine
end

