-- ==== Sys2Proof/Certificates/Slice0/Obligations.lean ====
section
/-! DEFINITION. The statements for the provers. Each quantifies over every parameter record through the
state's own `P`; a premise `s.P.wf = true` is R8's `WF(P)`, outside which the model refuses to run. -/

open Sys2Proof Sys2Proof.Machine

/-! ### Host commands: results and frames -/

/-- NOP answers with the state unchanged, no signal and the response unit. -/
def Obligations.NopChangesNothing : Prop :=
  ∀ s : State, s.P.wf = true →
    exec .nop s = .next { s with signals := [], response := some .unit }

/-- START in IDLE clears STOP_REQ and enters HUNT with four holes and BUF_LEN 0, emitting STARTED; in HUNT
or COLLECT it sets WARN bit 6 and emits OP_IGNORED. Nothing else changes. -/
def Obligations.StartEntersHuntFromIdleOnly : Prop :=
  ∀ s : State, s.P.wf = true →
    (s.FSM = .idle →
      exec .start s = .next { s with
        STOP_REQ := false
        FSM := .hunt
        WIN := ⟨⟨false, 0⟩, ⟨false, 0⟩, ⟨false, 0⟩, ⟨false, 0⟩⟩
        BUF_LEN := 0
        signals := [.started]
        response := some .unit }) ∧
    (s.FSM ≠ .idle →
      exec .start s = .next { s with
        WARN := s.WARN ||| 0x40
        signals := [.warning .opIgnored]
        response := some .unit })

/-- STOP sets STOP_REQ while running; in IDLE it sets WARN bit 6 and emits OP_IGNORED. Nothing else changes:
in particular FSM stays. -/
def Obligations.StopOnlyRequests : Prop :=
  ∀ s : State, s.P.wf = true →
    (s.FSM ≠ .idle →
      exec .stop s = .next { s with STOP_REQ := true, signals := [], response := some .unit }) ∧
    (s.FSM = .idle →
      exec .stop s = .next { s with
        WARN := s.WARN ||| 0x40
        signals := [.warning .opIgnored]
        response := some .unit })

/-- SET_ENG v writes ENG_MODE in every state and nothing else; ENG_LATCH of the frame in flight stays. -/
def Obligations.SetEngWritesEngMode : Prop :=
  ∀ (v : Bool) (s : State), s.P.wf = true →
    exec (.setEng v) s = .next { s with ENG_MODE := v, signals := [], response := some .unit }

/-- GET_DATA on a filled slot responds with the six fields and, exactly when GATES_VALID is 1, the two arrays,
and changes nothing; on an empty slot it responds empty, sets WARN bit 3 and emits EMPTY_READ. -/
def Obligations.GetDataReadsTheSlot : Prop :=
  ∀ s : State, s.P.wf = true →
    (s.SLOT_VALID = true →
      exec .getData s = .next { s with
        signals := []
        response := some (.reading
          { TT := s.SLOT.TT, MD := s.SLOT.MD, ME := s.SLOT.ME, SD := s.SLOT.SD, SE := s.SLOT.SE,
            DD := s.SLOT.DD,
            gates := if s.SLOT.GATES_VALID then some ⟨s.SLOT.MG, s.SLOT.SG⟩ else none }) }) ∧
    (s.SLOT_VALID = false →
      exec .getData s = .next { s with
        WARN := s.WARN ||| 0x08
        signals := [.warning .emptyRead]
        response := some .empty })

/-- GET_STATUS changes nothing and responds with the registers 0 to 6: CTRL bit 0 is ENG_MODE; STATUS bits 1:0
are FSM, bits 2 to 5 STOP_REQ, SLOT_VALID, GATES_VALID and FAILCNT > 32; the unused bits of CTRL, STATUS and
FAULT read 0; WARN, FAILCNT, CSUM_CNT and BUF_LEN are as held. -/
def Obligations.GetStatusRespondsWithSevenRegisters : Prop :=
  ∀ s : State, s.P.wf = true →
    ∃ r : StatusRegs,
      exec .getStatus s = .next { s with signals := [], response := some (.status r) } ∧
      (r.CTRL[0] = s.ENG_MODE ∧ r.CTRL.extractLsb' 1 7 = 0) ∧
      (r.STATUS.extractLsb' 0 2 = (match s.FSM with | .idle => 0 | .hunt => 1 | .collect => 2) ∧
        r.STATUS[2] = s.STOP_REQ ∧ r.STATUS[3] = s.SLOT_VALID ∧
        r.STATUS[4] = s.SLOT.GATES_VALID ∧ r.STATUS[5] = decide (s.FAILCNT > 32) ∧
        r.STATUS.extractLsb' 6 2 = 0) ∧
      r.WARN = s.WARN ∧
      (r.FAULT.extractLsb' 0 4 = s.FAULT ∧ r.FAULT.extractLsb' 4 4 = 0) ∧
      r.FAILCNT = s.FAILCNT ∧ r.CSUM_CNT = s.CSUM_CNT ∧ r.BUF_LEN = s.BUF_LEN

/-- CLR_WARN m clears exactly the WARN bits whose mask bit is 1 and changes nothing else: not FAULT, not a
counter. -/
def Obligations.ClrWarnClearsMaskedBits : Prop :=
  ∀ (m : Byte) (s : State), s.P.wf = true →
    ∃ w : BitVec 8,
      exec (.clrWarn m) s = .next { s with WARN := w, signals := [], response := some .unit } ∧
      ∀ i : Fin 8, w[i] = (s.WARN[i] && !m[i])

/-- When the host issues a word that the decoder rejects, the step sets FAULT bit 0, emits FAULT_ILLEGAL_CMD and
responds unit; nothing else in S changes. That the word leaves the host's queue and the turn leaves the schedule is
the model's (notes/assumptions/3.md). -/
def Obligations.IllegalWordIsRefusedWhole : Prop :=
  ∀ (s : State) (w : CommandWord) (ws : List CommandWord) (ts : List Turn) (e : IllegalWord),
    s.P.wf = true → s.schedule = .host :: ts → s.commands = w :: ws →
    decodeCommand w = .error e →
    step s = .next { s with
      FAULT := s.FAULT ||| 0x1
      commands := ws
      schedule := ts
      signals := [.fault .illegalCmd]
      response := some .unit }

/-- BUF_CLR in IDLE sets BUF_LEN to 0 and changes nothing else: the bytes of FB are not erased. Outside IDLE it
sets FAULT bit 1, emits FAULT_BUSY and changes nothing else. -/
def Obligations.BufClrEmptiesInIdle : Prop :=
  ∀ s : State, s.P.wf = true →
    (s.FSM = .idle →
      exec .bufClr s = .next { s with BUF_LEN := 0, signals := [], response := some .unit }) ∧
    (s.FSM ≠ .idle →
      exec .bufClr s = .next { s with
        FAULT := s.FAULT ||| 0x2
        signals := [.fault .busy]
        response := some .unit })

/-- BUF_PUSH b: outside IDLE FAULT bit 1 and FAULT_BUSY; in IDLE with a full buffer FAULT bit 2 and FAULT_BUF_OVF,
the byte lost; in IDLE with room FB[BUF_LEN] is b, every other byte of FB reads as before and BUF_LEN goes up
by 1. In each case nothing else changes. -/
def Obligations.BufPushAppendsOneByte : Prop :=
  ∀ (b : Byte) (s : State), s.P.wf = true →
    (s.FSM ≠ .idle →
      exec (.bufPush b) s = .next { s with
        FAULT := s.FAULT ||| 0x2
        signals := [.fault .busy]
        response := some .unit }) ∧
    (s.FSM = .idle → s.BUF_LEN = s.P.BUF_CAP →
      exec (.bufPush b) s = .next { s with
        FAULT := s.FAULT ||| 0x4
        signals := [.fault .bufOvf]
        response := some .unit }) ∧
    (s.FSM = .idle → s.BUF_LEN < s.P.BUF_CAP →
      ∃ m : Memory,
        exec (.bufPush b) s = .next { s with
          FB := m
          BUF_LEN := s.BUF_LEN + 1
          signals := []
          response := some .unit } ∧
        m.read s.BUF_LEN = some b ∧ ∀ a, a ≠ s.BUF_LEN → m.read a = s.FB.read a)

/-- In a safe IDLE state whose valid bytes start with HDR_ACK and hold the firmware fields before a 4-byte footer,
DEC_FW responds with the major version, high byte first, and the minor version reversed. A footer that differs
from TRL_ACK sets WARN bit 0, counts in CSUM_CNT (saturating) and emits CSUM_MISMATCH, and the answer is the
same. Nothing else changes. -/
def Obligations.DecFwDeliversFirmwareFields : Prop :=
  ∀ s : State, SafeState s → s.FSM = .idle → 8 ≤ s.BUF_LEN →
    s.memRead 0 4 = some s.P.HDR_ACK.toList →
    max (s.P.OFF_FW_MAJ + 2) (s.P.OFF_FW_MIN + s.P.FW_MIN_LEN) ≤ s.BUF_LEN - 4 →
    ∃ lo hi minor,
      s.memRead s.P.OFF_FW_MAJ 2 = some [lo, hi] ∧
      s.memRead s.P.OFF_FW_MIN s.P.FW_MIN_LEN = some minor ∧
      (s.memRead (s.BUF_LEN - 4) 4 = some s.P.TRL_ACK.toList →
        exec .decFw s = .next { s with signals := [], response := some (.fw hi lo minor.reverse) }) ∧
      (s.memRead (s.BUF_LEN - 4) 4 ≠ some s.P.TRL_ACK.toList →
        exec .decFw s = .next { s with
          CSUM_CNT := if s.CSUM_CNT = 2 ^ s.P.CNT_W - 1 then s.CSUM_CNT else s.CSUM_CNT + 1
          WARN := s.WARN ||| 0x01
          signals := [.warning .csumMismatch]
          response := some (.fw hi lo minor.reverse) })

/-- In a safe IDLE state whose valid bytes start with HDR_ACK and hold the address field before a 4-byte footer,
DEC_MAC responds with the 6 bytes at OFF_MAC in wire order. A footer that differs from TRL_ACK sets WARN bit
0, counts in CSUM_CNT (saturating) and emits CSUM_MISMATCH, and the answer is the same. Nothing else changes. -/
def Obligations.DecMacDeliversAddressInWireOrder : Prop :=
  ∀ s : State, SafeState s → s.FSM = .idle → 8 ≤ s.BUF_LEN →
    s.memRead 0 4 = some s.P.HDR_ACK.toList → s.P.OFF_MAC + 6 ≤ s.BUF_LEN - 4 →
    ∃ m0 m1 m2 m3 m4 m5,
      s.memRead s.P.OFF_MAC 6 = some [m0, m1, m2, m3, m4, m5] ∧
      (s.memRead (s.BUF_LEN - 4) 4 = some s.P.TRL_ACK.toList →
        exec .decMac s = .next { s with
          signals := []
          response := some (.mac m0 m1 m2 m3 m4 m5) }) ∧
      (s.memRead (s.BUF_LEN - 4) 4 ≠ some s.P.TRL_ACK.toList →
        exec .decMac s = .next { s with
          CSUM_CNT := if s.CSUM_CNT = 2 ^ s.P.CNT_W - 1 then s.CSUM_CNT else s.CSUM_CNT + 1
          WARN := s.WARN ||| 0x01
          signals := [.warning .csumMismatch]
          response := some (.mac m0 m1 m2 m3 m4 m5) })

/-- The precondition of DEC_FW and DEC_MAC. Outside IDLE they set FAULT bit 1, emit FAULT_BUSY and respond none. In
IDLE where BUF_LEN < 8, or the first 4 bytes are not HDR_ACK, or the command's fields reach past BUF_LEN - 4,
they set FAULT bit 3, emit FAULT_DEC_PRECOND and respond none. Nothing else changes: CSUM_CNT does not move.
(With the precondition they answer: DecFwDeliversFirmwareFields, DecMacDeliversAddressInWireOrder.) -/
def Obligations.DecodePreconditionRefuses : Prop :=
  ∀ (i : Instr) (need : Nat) (s : State), SafeState s →
    (i = .decFw ∧ need = max (s.P.OFF_FW_MAJ + 2) (s.P.OFF_FW_MIN + s.P.FW_MIN_LEN) ∨
      i = .decMac ∧ need = s.P.OFF_MAC + 6) →
    (s.FSM ≠ .idle →
      exec i s = .next { s with
        FAULT := s.FAULT ||| 0x2
        signals := [.fault .busy]
        response := some .noFields }) ∧
    (s.FSM = .idle →
      ¬ (8 ≤ s.BUF_LEN ∧ s.memRead 0 4 = some s.P.HDR_ACK.toList ∧ need ≤ s.BUF_LEN - 4) →
      exec i s = .next { s with
        FAULT := s.FAULT ||| 0x8
        signals := [.fault .decPrecond]
        response := some .noFields })

/-- Outside IDLE each of BUF_CLR, BUF_PUSH, DEC_FW and DEC_MAC sets FAULT bit 1, emits FAULT_BUSY and changes
nothing else; DEC_FW and DEC_MAC respond none, the others unit. -/
def Obligations.BufferCommandsAreBusyWhileRunning : Prop :=
  ∀ (i : Instr) (s : State), s.P.wf = true → s.FSM ≠ .idle →
    (i = .bufClr ∨ (∃ b, i = .bufPush b) ∨ i = .decFw ∨ i = .decMac) →
    exec i s = .next { s with
      FAULT := s.FAULT ||| 0x2
      signals := [.fault .busy]
      response := some (if i = .decFw ∨ i = .decMac then .noFields else .unit) }

/-! ### Event steps: results and frames -/

/-- EV_BYTE b in HUNT shifts b into the window and resets FAILCNT. If the four entries are then bytes equal to
HDR_TLM, oldest first, ENG_LATCH takes ENG_MODE, the header is stored at FB[0..3] (every other byte of FB
reads as before), BUF_LEN is 4, FSM is COLLECT and SYNC is emitted; if not, nothing else changes. -/
def Obligations.HuntByteShiftsAndMatches : Prop :=
  ∀ (b : Byte) (s : State) (H : Marker) (W : Window), s.P.wf = true → s.FSM = .hunt →
    H = s.P.HDR_TLM → W = ⟨s.WIN.w1, s.WIN.w2, s.WIN.w3, ⟨true, b⟩⟩ →
    (W = ⟨⟨true, H.b0⟩, ⟨true, H.b1⟩, ⟨true, H.b2⟩, ⟨true, H.b3⟩⟩ →
      ∃ m : Memory,
        exec (.evByte b) s = .next { s with
          FAILCNT := 0
          WIN := W
          ENG_LATCH := s.ENG_MODE
          FB := m
          BUF_LEN := 4
          FSM := .collect
          signals := [.sync]
          response := none } ∧
        m.readList 0 4 = some H.toList ∧ ∀ a, 4 ≤ a → m.read a = s.FB.read a) ∧
    (W ≠ ⟨⟨true, H.b0⟩, ⟨true, H.b1⟩, ⟨true, H.b2⟩, ⟨true, H.b3⟩⟩ →
      exec (.evByte b) s = .next { s with
        FAILCNT := 0
        WIN := W
        signals := []
        response := none })

/-- EV_EMPTY in HUNT shifts a hole into the window and increments FAILCNT (saturating); when the new value exceeds
32, WARN bit 2 is set and BAUD_SUSPECT emitted. FSM stays HUNT and nothing else changes. -/
def Obligations.HuntEmptyShiftsAHole : Prop :=
  ∀ (s : State) (c : Nat), s.P.wf = true → s.FSM = .hunt →
    c = (if s.FAILCNT = 2 ^ s.P.CNT_W - 1 then s.FAILCNT else s.FAILCNT + 1) →
    exec .evEmpty s = .next { s with
      FAILCNT := c
      WARN := if 32 < c then s.WARN ||| 0x04 else s.WARN
      WIN := ⟨s.WIN.w1, s.WIN.w2, s.WIN.w3, ⟨false, 0⟩⟩
      signals := if 32 < c then [.warning .baudSuspect] else []
      response := none }

/-- EV_BYTE b in COLLECT, before the frame's last byte: b is stored at FB[BUF_LEN], whatever its value, every other
byte of FB reads as before, BUF_LEN goes up by 1 and FAILCNT is 0. Nothing else changes: the window is
neither shifted nor compared. -/
def Obligations.CollectByteIsStored : Prop :=
  ∀ (b : Byte) (s : State), s.P.wf = true → s.FSM = .collect →
    s.BUF_LEN + 1 < s.P.frameLen s.ENG_LATCH →
    ∃ m : Memory,
      exec (.evByte b) s = .next { s with
        FAILCNT := 0
        FB := m
        BUF_LEN := s.BUF_LEN + 1
        signals := []
        response := none } ∧
      m.read s.BUF_LEN = some b ∧ ∀ a, a ≠ s.BUF_LEN → m.read a = s.FB.read a

/-- EV_EMPTY in COLLECT discards the partial frame: FAILCNT and BAUD_SUSPECT as in HUNT, then WARN bit 4 and
FRAME_ABORT, and HUNT is entered. Nothing else changes: no publication, CSUM_CNT and STOP_REQ stay. -/
def Obligations.CollectEmptyAbortsTheFrame : Prop :=
  ∀ (s : State) (c : Nat), s.P.wf = true → s.FSM = .collect →
    c = (if s.FAILCNT = 2 ^ s.P.CNT_W - 1 then s.FAILCNT else s.FAILCNT + 1) →
    exec .evEmpty s = .next { s with
      FAILCNT := c
      WARN := (if 32 < c then s.WARN ||| 0x04 else s.WARN) ||| 0x10
      FSM := .hunt
      WIN := ⟨⟨false, 0⟩, ⟨false, 0⟩, ⟨false, 0⟩, ⟨false, 0⟩⟩
      BUF_LEN := 0
      signals := (if 32 < c then [.warning .baudSuspect] else []) ++ [.warning .frameAbort]
      response := none }

/-- A byte that completes a frame collected with ENG_LATCH 0 and showing the engineering signature drops it:
ENG_MODE becomes 1, WARN bit 1 is set, MODE_DESYNC emitted and HUNT entered; beside the stored byte and FAILCNT
nothing else changes: CSUM_CNT, the slot and STOP_REQ stay. -/
def Obligations.SignatureDropsAStandardFrame : Prop :=
  ∀ (b : Byte) (s : State) (F : List Byte), SafeState s → completes s →
    frameWith s b = some F → s.ENG_LATCH = false →
    (∀ j < s.P.ENG_SIG.length, F[s.P.ENG_SIG_OFF + j]? = s.P.ENG_SIG[j]?) →
    ∃ m : Memory,
      exec (.evByte b) s = .next { s with
        FAILCNT := 0
        FB := m
        ENG_MODE := true
        WARN := s.WARN ||| 0x02
        FSM := .hunt
        WIN := ⟨⟨false, 0⟩, ⟨false, 0⟩, ⟨false, 0⟩, ⟨false, 0⟩⟩
        BUF_LEN := 0
        signals := [.warning .modeDesync]
        response := none } ∧
      m.read s.BUF_LEN = some b ∧ ∀ a, a ≠ s.BUF_LEN → m.read a = s.FB.read a

/-- A byte that completes any other frame publishes it in the same step: the slot's six fields are the frame's bytes
at their offsets, the two distances little-endian. -/
def Obligations.PublishedFieldsAreTheFrames : Prop :=
  ∀ (b : Byte) (s : State) (F : List Byte), SafeState s → completes s → frameWith s b = some F →
    (s.ENG_LATCH = true ∨
      ∃ j < s.P.ENG_SIG.length, F[s.P.ENG_SIG_OFF + j]? ≠ s.P.ENG_SIG[j]?) →
    ∃ t, exec (.evByte b) s = .next t ∧ t.SLOT_VALID = true ∧
      F[s.P.OFF_TT]? = some t.SLOT.TT ∧ F[s.P.OFF_ME]? = some t.SLOT.ME ∧
      F[s.P.OFF_SE]? = some t.SLOT.SE ∧ F[s.P.OFF_DD]? = some t.SLOT.DD ∧
      (∃ lo hi, F[s.P.OFF_MD]? = some lo ∧ F[s.P.OFF_MD + 1]? = some hi ∧
        t.SLOT.MD.toNat = lo.toNat + 256 * hi.toNat) ∧
      (∃ lo hi, F[s.P.OFF_SD]? = some lo ∧ F[s.P.OFF_SD + 1]? = some hi ∧
        t.SLOT.SD.toNat = lo.toNat + 256 * hi.toNat)

/-- The gate arrays of a publication: with ENG_LATCH 1 GATES_VALID is 1 and element i of each array is the frame's
byte at the array's offset plus i, for i = 0 to 8; with ENG_LATCH 0 GATES_VALID is 0 and the array registers stay
as they were. -/
def Obligations.PublishedGatesFollowTheLatch : Prop :=
  ∀ (b : Byte) (s : State) (F : List Byte), SafeState s → completes s → frameWith s b = some F →
    (s.ENG_LATCH = true ∨
      ∃ j < s.P.ENG_SIG.length, F[s.P.ENG_SIG_OFF + j]? ≠ s.P.ENG_SIG[j]?) →
    ∃ t, exec (.evByte b) s = .next t ∧ t.SLOT.GATES_VALID = s.ENG_LATCH ∧
      (s.ENG_LATCH = true →
        ∀ i : Fin 9, F[s.P.OFF_MG + i]? = some t.SLOT.MG[i] ∧ F[s.P.OFF_SG + i]? = some t.SLOT.SG[i]) ∧
      (s.ENG_LATCH = false → t.SLOT.MG = s.SLOT.MG ∧ t.SLOT.SG = s.SLOT.SG)

/-- The trailer check never rejects: whether or not the last 4 bytes equal TRL_TLM the slot becomes the publication of
the reading extracted from the frame; a mismatch sets WARN bit 0, increments CSUM_CNT (saturating) and emits CSUM_MISMATCH before PUBLISH, a match leaves CSUM_CNT
and WARN bit 0 and emits no such signal. -/
def Obligations.TrailerCheckIsAdvisory : Prop :=
  ∀ (b : Byte) (s : State) (F : List Byte), SafeState s → completes s → frameWith s b = some F →
    (s.ENG_LATCH = true ∨
      ∃ j < s.P.ENG_SIG.length, F[s.P.ENG_SIG_OFF + j]? ≠ s.P.ENG_SIG[j]?) →
    ∃ t, exec (.evByte b) s = .next t ∧ t.SLOT_VALID = true ∧ .publish ∈ t.signals ∧
      t.SLOT = s.SLOT.publish (extract s.P s.ENG_LATCH F) ∧
      (F.drop (F.length - 4) = s.P.TRL_TLM.toList →
        t.CSUM_CNT = s.CSUM_CNT ∧ t.WARN[0] = s.WARN[0] ∧ .warning .csumMismatch ∉ t.signals) ∧
      (F.drop (F.length - 4) ≠ s.P.TRL_TLM.toList →
        t.CSUM_CNT = (if s.CSUM_CNT = 2 ^ s.P.CNT_W - 1 then s.CSUM_CNT else s.CSUM_CNT + 1) ∧
        t.WARN[0] = true ∧ t.signals.head? = some (.warning .csumMismatch))

/-- The state after a publication: a pending stop is honoured (IDLE, STOP_REQ 0, BUF_LEN 0, the window left as it was),
otherwise HUNT is entered; the signals are CSUM_MISMATCH, TT_INVALID, PUBLISH and STOPPED in this order, each but
PUBLISH only if its condition holds; WARN changes in bits 0 and 5 only; and P, ENG_MODE, ENG_LATCH, FAULT, every
other byte of FB and the environment's queues are unchanged. -/
def Obligations.PublicationHonoursAPendingStop : Prop :=
  ∀ (b : Byte) (s : State) (F : List Byte) (bad reserved : Bool), SafeState s → completes s →
    frameWith s b = some F →
    (s.ENG_LATCH = true ∨
      ∃ j < s.P.ENG_SIG.length, F[s.P.ENG_SIG_OFF + j]? ≠ s.P.ENG_SIG[j]?) →
    bad = decide (F.drop (F.length - 4) ≠ s.P.TRL_TLM.toList) →
    reserved = decide (3 < (F.getD s.P.OFF_TT 0).toNat) →
    ∃ (m : Memory) (slot : Slot) (csum : Nat),
      exec (.evByte b) s = .next { s with
        FAILCNT := 0
        FB := m
        SLOT := slot
        SLOT_VALID := true
        CSUM_CNT := csum
        WARN := s.WARN ||| (if bad then 0x01 else 0) ||| (if reserved then 0x20 else 0)
        FSM := if s.STOP_REQ then .idle else .hunt
        STOP_REQ := false
        BUF_LEN := 0
        WIN := if s.STOP_REQ then s.WIN else ⟨⟨false, 0⟩, ⟨false, 0⟩, ⟨false, 0⟩, ⟨false, 0⟩⟩
        signals :=
          (if bad then [.warning .csumMismatch] else []) ++
            (if reserved then [.warning .ttInvalid] else []) ++ [.publish] ++
            (if s.STOP_REQ then [.stopped] else [])
        response := none } ∧
      m.read s.BUF_LEN = some b ∧ ∀ a, a ≠ s.BUF_LEN → m.read a = s.FB.read a

/-- In a safe state the byte that completes a frame is stored at the fill index, the whole frame is then read from FB
with every byte of it written, and completion runs on exactly those bytes in the same step. They are the bytes
collected before and the new one, as many as the latch selects, and start with HDR_TLM. -/
def Obligations.CompletedFrameIsWritten : Prop :=
  ∀ (b : Byte) (s : State) (m : Memory), SafeState s → completes s →
    m = s.FB.write s.BUF_LEN b →
    ∃ F, m.readList 0 s.frameLen = some F ∧
      exec (.evByte b) s =
        .next (completeFrame F { s with FAILCNT := 0, FB := m, signals := [], response := none }) ∧
      frameWith s b = some F ∧ F.length = s.P.frameLen s.ENG_LATCH ∧
      F.take 4 = s.P.HDR_TLM.toList ∧ F.getLast? = some b

/-- Once the stream's turn comes while FSM is IDLE, nothing in S changes and the item stays in the stream; the
turn is used up and the outputs are empty (the queues and the turn are the model's, notes/assumptions/3.md and
4.md). -/
def Obligations.EventWaitsWhileIdle : Prop :=
  ∀ (s : State) (ts : List Turn), s.P.wf = true → s.schedule = .event :: ts → s.FSM = .idle →
    step s = .next { s with schedule := ts, signals := [], response := none }

/-! ### Fetch, decode and encode -/

/-- A step runs the decoded instruction: the stream's turn in HUNT or COLLECT runs the decoding of the stream's head
on the state with that item taken, the host's turn runs the decoding of the host's next word on the state with
that word taken, and the used turn is gone from the schedule. -/
def Obligations.StepRunsTheDecodedInstruction : Prop :=
  (∀ (s : State) (ts : List Turn) (w : EventWord) (ws : List EventWord),
    s.schedule = .event :: ts → s.stream = w :: ws → s.FSM ≠ .idle →
    step s = exec (decodeEvent w) { s with schedule := ts, stream := ws }) ∧
  (∀ (s : State) (ts : List Turn) (w : CommandWord) (ws : List CommandWord) (i : Instr),
    s.schedule = .host :: ts → s.commands = w :: ws → decodeCommand w = .ok i →
    step s = exec i { s with schedule := ts, commands := ws })

/-- Words written out from the encodings decode to what they stand for, in every family. -/
def Obligations.WrittenOutWordsDecode : Prop :=
  decodeEvent 0b011110100 = .evByte 0xF4 ∧ decodeEvent 0b100000000 = .evEmpty ∧
    decodeEvent 0b110100101 = .evEmpty ∧
    decodeCommand 0b000100000000 = .ok .start ∧ decodeCommand 0b001100000001 = .ok (.setEng true) ∧
    decodeCommand 0b011001111111 = .ok (.clrWarn 0x7F) ∧
    decodeCommand 0b100011111101 = .ok (.bufPush 0xFD) ∧ decodeCommand 0b101000000000 = .ok .decMac

/-- A command word decodes to an instruction of a row's mnemonic exactly when the word and-ed with the row's mask is
the row's match; and no two rows select one word. -/
def Obligations.DecoderFollowsTheOpcodeMap : Prop :=
  (∀ (w : CommandWord) (r : CommandRow), r ∈ commandRows →
    ((w &&& r.mask = r.pattern) ↔ ∃ i, decodeCommand w = .ok i ∧ i.mnemonic = r.mnemonic)) ∧
  ∀ (w : CommandWord) (r q : CommandRow), r ∈ commandRows → q ∈ commandRows →
    w &&& r.mask = r.pattern → w &&& q.mask = q.pattern → r = q

/-- The decoder rejects exactly the words with OP in 0xB to 0xF, the words of operand-less commands with ARG not 0,
and SET_ENG with ARG[7:1] not 0, each under its own name; of the 4096 words 522 are legal. -/
def Obligations.IllegalWordsAreTheThreeClasses : Prop :=
  (∀ w : CommandWord,
    (decodeCommand w = .error .reservedOp ↔ 0xB ≤ (w.extractLsb' 8 4).toNat) ∧
    (decodeCommand w = .error .setEngArg ↔
      w.extractLsb' 8 4 = 0x3 ∧ w.extractLsb' 1 7 ≠ 0) ∧
    (decodeCommand w = .error .strayArg ↔
      (w.extractLsb' 8 4).toNat ∈ [0x0, 0x1, 0x2, 0x4, 0x5, 0x7, 0x9, 0xA] ∧
        w.extractLsb' 0 8 ≠ 0)) ∧
  (List.range 4096).countP isLegalCommand = 522

/-- Decoding the encoding of any instruction gives it back, with every operand at every value; and a legal command
word, or an event word other than a non-canonical EV_EMPTY, is the encoding of what it decodes to. -/
def Obligations.DecodeAndEncodeAgree : Prop :=
  (∀ i : Instr, decode (encode i) = .ok i) ∧
  (∀ (w : CommandWord) (i : Instr), decodeCommand w = .ok i → encode i = .command w) ∧
  ∀ w : EventWord, (w[8] = true → w = 0x100) → encode (decodeEvent w) = .event w

/-! ### Reset -/

/-- Right after reset, in State.reset and for every parameter record, the elements that R55 gives a value have it:
IDLE, no stop, both mode bits 0, four holes, BUF_LEN, both counters, WARN and FAULT 0, the slot empty and
GATES_VALID 0. -/
def Obligations.ResetValuesAreAsSpecified : Prop :=
  ∀ s : State, (s = State.reset ∨ ∃ P : Params, s = State.resetWith P) →
    s.FSM = .idle ∧ s.STOP_REQ = false ∧ s.ENG_MODE = false ∧ s.ENG_LATCH = false ∧
      s.WIN = ⟨⟨false, 0⟩, ⟨false, 0⟩, ⟨false, 0⟩, ⟨false, 0⟩⟩ ∧ s.BUF_LEN = 0 ∧ s.FAILCNT = 0 ∧
      s.CSUM_CNT = 0 ∧ s.WARN = 0 ∧ s.FAULT = 0 ∧ s.SLOT_VALID = false ∧
      s.SLOT.GATES_VALID = false

/-- The reset input, in any state of a machine with a well-formed record, gives every element that R55 gives a value
that value; the parameter record and the event stream are not touched. That reset is a turn of the schedule, and
that the host's commands stay, is the model's choice (notes/assumptions/3.md and 13.md). -/
def Obligations.ResetInputRestoresResetValues : Prop :=
  ∀ (s : State) (ts : List Turn), s.P.wf = true → s.schedule = .reset :: ts →
    ∃ t, step s = .next t ∧ t.P = s.P ∧ t.stream = s.stream ∧ t.commands = s.commands ∧
      t.schedule = ts ∧
      t.FSM = .idle ∧ t.STOP_REQ = false ∧ t.ENG_MODE = false ∧ t.ENG_LATCH = false ∧
      t.WIN = ⟨⟨false, 0⟩, ⟨false, 0⟩, ⟨false, 0⟩, ⟨false, 0⟩⟩ ∧ t.BUF_LEN = 0 ∧ t.FAILCNT = 0 ∧
      t.CSUM_CNT = 0 ∧ t.WARN = 0 ∧ t.FAULT = 0 ∧ t.SLOT_VALID = false ∧
      t.SLOT.GATES_VALID = false

/-! ### The invariant -/

/-- The state after reset is safe: State.reset is, and so is it for every well-formed record. The counters' widths and
the memory's form in SafeState are the model's (notes/assumptions/6.md and 8.md). -/
def Obligations.ResetIsSafe : Prop :=
  SafeState State.reset ∧ ∀ P : Params, P.wf = true → SafeState (State.resetWith P)

/-- Every step from a safe state that goes on leads to a safe state. The counters' widths and the memory's form in
SafeState are the model's (notes/assumptions/6.md and 8.md). -/
def Obligations.StepKeepsSafeStates : Prop :=
  ∀ s t : State, SafeState s → step s = .next t → SafeState t

/-- No condition stops the FSD: from a safe state every step answers a next state, and so does every instruction. That
step waits where no step is enabled, and that exec of an event in IDLE answers too, is the model's choice
(notes/assumptions/4.md). -/
def Obligations.SafeStatesNeverStop : Prop :=
  ∀ s : State, SafeState s → (∃ t, step s = .next t) ∧ ∀ i, ∃ t, exec i s = .next t

/-- A machine whose parameter record is not well-formed is given no meaning: every step and every instruction is
refused under that name. -/
def Obligations.IllFormedRecordsAreRefused : Prop :=
  ∀ s : State, s.P.wf = false →
    step s = .refused .paramsNotWellFormed ∧ ∀ i, exec i s = .refused .paramsNotWellFormed

/-! ### The event steps as whole functions -/

/-- The HUNT event step is R152's `HuntStep` on every state with a well-formed record. -/
def Obligations.HuntStepIsTheReferenceFunction : Prop :=
  ∀ (e : Instr) (s : State), e.isEvent = true → s.P.wf = true → s.FSM = .hunt →
    exec e s = .next (referenceHuntStep e { s with signals := [], response := none })

/-- The COLLECT event step is R191's `CollectStep` on every safe state. -/
def Obligations.CollectStepIsTheReferenceFunction : Prop :=
  ∀ (e : Instr) (s : State), e.isEvent = true → SafeState s → s.FSM = .collect →
    ∃ t, referenceCollectStep e { s with signals := [], response := none } = some t ∧
      exec e s = .next t

/-- A hunt that starts with an empty window synchronizes exactly at the first full occurrence of the header: after
events of which no proper initial run ends with the 4 header bytes, FSM is COLLECT if the events end with them,
and HUNT if they do not. -/
def Obligations.HuntMatchesAtTheFirstOccurrence : Prop :=
  ∀ (s : State) (es : List Instr), s.P.wf = true → s.FSM = .hunt → s.WIN = Window.holes →
    (∀ e ∈ es, e.isEvent = true) →
    (∀ pre, pre <+: es → pre ≠ es → ¬ endsWithHeader s.P pre) →
    ∃ t, runEvents es s = .next t ∧
      (endsWithHeader s.P es → t.FSM = .collect ∧ t.BUF_LEN = 4) ∧
      (¬ endsWithHeader s.P es → t.FSM = .hunt)

/-- From FAILCNT 0 in HUNT, n empty reads in a row leave FAILCNT at n, saturating; WARN bit 2 is set from the 33rd on,
and each of them from the 33rd on emits BAUD_SUSPECT. -/
def Obligations.BaudWarningFromThe33rdEmptyRead : Prop :=
  ∀ (n : Nat) (s : State), s.P.wf = true → s.FSM = .hunt → s.FAILCNT = 0 →
    ∃ t, runEvents (List.replicate n .evEmpty) s = .next t ∧ t.FSM = .hunt ∧
      t.FAILCNT = min n (2 ^ s.P.CNT_W - 1) ∧
      t.WARN[2] = (s.WARN[2] || decide (33 ≤ n)) ∧
      (0 < n → t.signals = if 33 ≤ n then [.warning .baudSuspect] else [])

/-! ### Whole-machine rules -/

/-- What no rule reads cannot matter: two states that differ only in bytes of FB at or above BUF_LEN, in the data of
an empty slot, or in the arrays of a slot with GATES_VALID 0, step to states that again differ at most there,
with the same response and the same signals. -/
def Obligations.UnreadableContentsNeverMatter : Prop :=
  ∀ s t s' : State, SameReadable s t → step s = .next s' →
    ∃ t', step t = .next t' ∧ SameReadable s' t'

/-- No host command reads WIN or ENG_LATCH: with other values there it gives the same response, the same signals and
the same registers 0 to 6. -/
def Obligations.HostCannotReadWindowOrLatch : Prop :=
  ∀ (i : Instr) (s t : State) (W : Window) (latch : Bool), i.isHost = true → exec i s = .next t →
    ∃ t', exec i { s with WIN := W, ENG_LATCH := latch } = .next t' ∧
      t'.response = t.response ∧ t'.signals = t.signals ∧ t'.statusRegs = t.statusRegs

/-- The frame in flight keeps its mode: in COLLECT an event step takes the same course whatever ENG_MODE is, and writes
ENG_MODE only where the heuristic sets it. -/
def Obligations.FrameInFlightKeepsItsMode : Prop :=
  ∀ (e : Instr) (s t : State) (v : Bool), e.isEvent = true → s.FSM = .collect →
    exec e s = .next t →
    exec e { s with ENG_MODE := v } =
      .next { t with ENG_MODE := if .warning .modeDesync ∈ t.signals then true else v }

/-- A published reading has its arrays exactly when ENG_LATCH was 1 for its frame; and a host that issues SET_ENG in
IDLE only keeps ENG_LATCH equal to ENG_MODE while a frame is in flight, so that every publication's GATES_VALID
equals ENG_MODE. -/
def Obligations.ArraysPresentExactlyInEngineeringMode : Prop :=
  ∀ (i : Instr) (s t : State), exec i s = .next t →
    (.publish ∈ t.signals → t.SLOT.GATES_VALID = s.ENG_LATCH) ∧
    ((s.FSM = .collect → s.ENG_LATCH = s.ENG_MODE) → (s.FSM ≠ .idle → ∀ v, i ≠ .setEng v) →
      (t.FSM = .collect → t.ENG_LATCH = t.ENG_MODE) ∧
      (.publish ∈ t.signals → t.SLOT.GATES_VALID = t.ENG_MODE))

/-- Fault bits are never cleared except by reset. -/
def Obligations.FaultBitsOnlyResetClears : Prop :=
  ∀ (s t : State) (i : Fin 4), step s = .next t → s.schedule.head? ≠ some .reset →
    s.FAULT[i] = true → t.FAULT[i] = true

/-- A warning bit is cleared only by CLR_WARN with its mask bit set. -/
def Obligations.WarningBitsOnlyClrWarnClears : Prop :=
  ∀ (i : Instr) (s t : State) (n : Fin 8), exec i s = .next t → s.WARN[n] = true →
    t.WARN[n] = true ∨ ∃ m : Byte, i = .clrWarn m ∧ m[n] = true

/-- Where the position (FSM, BUF_LEN) can go in one instruction: R35's moves, and in IDLE those of BUF_CLR and BUF_PUSH
(R261, R262). -/
def Obligations.PositionMovesOnlyAsListed : Prop :=
  ∀ (i : Instr) (s t : State), SafeState s → exec i s = .next t →
    (s.FSM = .idle →
      (t.FSM = .idle ∧ (t.BUF_LEN = s.BUF_LEN ∨ i = .bufClr ∧ t.BUF_LEN = 0 ∨
        (∃ b, i = .bufPush b) ∧ t.BUF_LEN = s.BUF_LEN + 1)) ∨
      (i = .start ∧ t.FSM = .hunt ∧ t.BUF_LEN = 0)) ∧
    (s.FSM = .hunt →
      (t.FSM = .hunt ∧ t.BUF_LEN = 0) ∨
      (t.FSM = .collect ∧ t.BUF_LEN = 4 ∧
        ∃ b, i = .evByte b ∧ headerMatch s.P (s.WIN.shift (.byte b)) = true)) ∧
    (s.FSM = .collect →
      (i.isHost = true ∧ t.FSM = .collect ∧ t.BUF_LEN = s.BUF_LEN) ∨
      (i = .evEmpty ∧ t.FSM = .hunt ∧ t.BUF_LEN = 0) ∨
      (∃ b, i = .evByte b) ∧
        (if s.BUF_LEN + 1 < s.P.frameLen s.ENG_LATCH then
          t.FSM = .collect ∧ t.BUF_LEN = s.BUF_LEN + 1
        else t.FSM ≠ .collect ∧ t.BUF_LEN = 0))

/-- IDLE is left by START only, and entered (other than by reset) only in the step that publishes a frame while a
stop is pending, which clears the request and emits STOPPED last. -/
def Obligations.IdleIsLeftByStartAndEnteredByPublication : Prop :=
  ∀ (i : Instr) (s t : State), exec i s = .next t →
    (s.FSM = .idle → t.FSM ≠ .idle → i = .start) ∧
    (s.FSM ≠ .idle → t.FSM = .idle →
      (∃ b, i = .evByte b) ∧ s.FSM = .collect ∧ s.STOP_REQ = true ∧ t.STOP_REQ = false ∧
        .publish ∈ t.signals ∧ t.signals.getLast? = some .stopped)

/-- A collected frame has no other outcome than these: an event in COLLECT leaves it in flight, publishes it, drops it
by the heuristic, or aborts it on an empty read; the slot is written by a publication alone. -/
def Obligations.CollectedFrameOutcomes : Prop :=
  ∀ (e : Instr) (s t : State), e.isEvent = true → SafeState s → s.FSM = .collect →
    exec e s = .next t →
    (t.FSM = .collect ∧ t.signals = [] ∧ t.SLOT = s.SLOT ∧ t.SLOT_VALID = s.SLOT_VALID) ∨
    (t.FSM ≠ .collect ∧ .publish ∈ t.signals ∧ t.SLOT_VALID = true) ∨
    (t.FSM = .hunt ∧ t.signals = [.warning .modeDesync] ∧ t.SLOT = s.SLOT ∧
      t.SLOT_VALID = s.SLOT_VALID) ∨
    (t.FSM = .hunt ∧ e = .evEmpty ∧ .warning .frameAbort ∈ t.signals ∧ .publish ∉ t.signals ∧
      t.SLOT = s.SLOT ∧ t.SLOT_VALID = s.SLOT_VALID)

/-- The slot is written only by a publication, and once filled it stays filled until reset. -/
def Obligations.SlotIsWrittenByPublicationOnly : Prop :=
  ∀ (i : Instr) (s t : State), exec i s = .next t →
    (.publish ∉ t.signals → t.SLOT = s.SLOT ∧ t.SLOT_VALID = s.SLOT_VALID) ∧
    (.publish ∈ t.signals → t.SLOT_VALID = true ∧ t.SLOT.GATES_VALID = s.ENG_LATCH ∧
      (∃ b, i = .evByte b) ∧ s.FSM = .collect) ∧
    (s.SLOT_VALID = true → t.SLOT_VALID = true)

/-- GET_DATA right after a publication delivers that frame's whole reading, and again when it is repeated. -/
def Obligations.GetDataDeliversTheLatestFrame : Prop :=
  ∀ (b : Byte) (s t u : State) (F : List Byte), SafeState s → completes s →
    frameWith s b = some F → exec (.evByte b) s = .next t → .publish ∈ t.signals →
    exec .getData t = .next u →
    u.response = some (.reading (extract s.P s.ENG_LATCH F)) ∧ exec .getData u = .next u

/-- A host step touches neither FAILCNT nor WIN, except that START from IDLE clears WIN; an event step sets FAILCNT to
0 on a byte and increments it on an empty read wherever it is enabled. -/
def Obligations.FailcntFollowsTheEvents : Prop :=
  ∀ (i : Instr) (s t : State), exec i s = .next t →
    (i.isHost = true → t.FAILCNT = s.FAILCNT ∧
      t.WIN = if i = .start ∧ s.FSM = .idle then Window.holes else s.WIN) ∧
    (s.FSM ≠ .idle → (∃ b, i = .evByte b) → t.FAILCNT = 0) ∧
    (s.FSM ≠ .idle → i = .evEmpty →
      t.FAILCNT = if s.FAILCNT = 2 ^ s.P.CNT_W - 1 then s.FAILCNT else s.FAILCNT + 1)

/-- CSUM_CNT is never cleared except by reset and goes up by at most 1, exactly in a step that emits CSUM_MISMATCH and
only while it is below its greatest value. -/
def Obligations.CsumCntCountsMismatches : Prop :=
  ∀ (i : Instr) (s t : State), exec i s = .next t →
    t.CSUM_CNT =
      if .warning .csumMismatch ∈ t.signals ∧ s.CSUM_CNT ≠ 2 ^ s.P.CNT_W - 1 then s.CSUM_CNT + 1
      else s.CSUM_CNT

/-- The response's shape depends on the command only: the table of R107; an event step has none. -/
def Obligations.ResponseShapeFollowsTheCommand : Prop :=
  ∀ (i : Instr) (s t : State), exec i s = .next t →
    match i with
    | .evByte _ | .evEmpty => t.response = none
    | .nop | .start | .stop | .setEng _ | .clrWarn _ | .bufClr | .bufPush _ =>
      t.response = some .unit
    | .getData => t.response = some .empty ∨ ∃ r, t.response = some (.reading r)
    | .getStatus => ∃ r, t.response = some (.status r)
    | .decFw =>
      t.response = some .noFields ∨
        ∃ hi lo minor, t.response = some (.fw hi lo minor) ∧ minor.length = s.P.FW_MIN_LEN
    | .decMac =>
      t.response = some .noFields ∨
        ∃ m0 m1 m2 m3 m4 m5, t.response = some (.mac m0 m1 m2 m3 m4 m5)

/-- The order of the signals of one step: an EV_EMPTY step BAUD_SUSPECT then FRAME_ABORT (in COLLECT only); an EV_BYTE
step SYNC alone, MODE_DESYNC alone, or CSUM_MISMATCH, TT_INVALID, PUBLISH, STOPPED, all but PUBLISH optional, or
nothing; a host step at most one signal. -/
def Obligations.SignalsComeInTheFixedOrder : Prop :=
  (∀ (b : Byte) (s t : State), exec (.evByte b) s = .next t →
    t.signals = [] ∨ t.signals = [.sync] ∨ t.signals = [.warning .modeDesync] ∨
    ∃ bad reserved stopping : Bool,
      t.signals =
        (if bad then [.warning .csumMismatch] else []) ++
          (if reserved then [.warning .ttInvalid] else []) ++ [.publish] ++
          (if stopping then [.stopped] else [])) ∧
  (∀ s t : State, exec .evEmpty s = .next t →
    ∃ baud : Bool,
      t.signals =
        (if baud then [.warning .baudSuspect] else []) ++
          (if s.FSM = .collect then [.warning .frameAbort] else [])) ∧
  ∀ (i : Instr) (s t : State), i.isHost = true → exec i s = .next t → t.signals.length ≤ 1

/-- FB is stored to at the addresses `storedAddresses` computes and nowhere else: the 4 header bytes at a match, the
fill index by a COLLECT byte and by an accepted BUF_PUSH; every other address reads as before. -/
def Obligations.StoresOnlyAtTheFillIndex : Prop :=
  ∀ (i : Instr) (s t : State) (a : Nat), exec i s = .next t → a ∉ storedAddresses i s →
    t.FB.read a = s.FB.read a

/-- The parameter record cannot change at run time, and a step takes from each queue at most its head: the event
stream's only in an event step that is enabled, the host's only in a host step. -/
def Obligations.StepTakesAtMostTheHeads : Prop :=
  ∀ s t : State, step s = .next t →
    t.P = s.P ∧ t.schedule = s.schedule.tail ∧
      t.stream = (if s.schedule.head? = some .event ∧ s.FSM ≠ .idle then s.stream.tail else s.stream) ∧
      t.commands = (if s.schedule.head? = some .host then s.commands.tail else s.commands)

/-! ### Programs -/

/-- PUSH b0 ... bk in IDLE leaves exactly those bytes as the valid bytes of FB, with no refusal, when they fit. -/
def Obligations.PushLoadsTheBuffer : Prop :=
  ∀ (s : State) (bs : List Byte), s.P.wf = true → s.FSM = .idle → bs.length ≤ s.P.BUF_CAP →
    ∃ t, Trace.run (Trace.push bs) s = .next t ∧ t.FSM = .idle ∧ t.FAULT = s.FAULT ∧
      t.WARN = s.WARN ∧ t.BUF_LEN = bs.length ∧ t.memRead 0 bs.length = some bs

/-- A trace that is a run of the machine is the run of the machine on the trace's inputs: loaded as the two sides'
queues and the schedule that interleaves them, as many steps as it has items end in the same state. The queues, the
schedule and the trace runner are the model's (notes/assumptions/3.md and 16.md). -/
def Obligations.LoadedTraceRunsAsTheTrace : Prop :=
  ∀ (xs : Trace) (s t : State), Trace.run xs s = .next t →
    Host.Core.run Sys2Proof.core xs.length (Trace.load xs s) = .next t

/-! ### Operand mappings -/

/-- Codes 0 to 3 are none, moving, static, and moving and static; every other code is invalid. -/
def Obligations.TargetTypeMapping : Prop :=
  targetType 0 = .noTarget ∧ targetType 1 = .moving ∧ targetType 2 = .static ∧
    targetType 3 = .movingAndStatic ∧ ∀ c : Byte, 4 ≤ c.toNat → targetType c = .invalid
end

