-- ==== Sys2Proof/Laws/Memory.lean ====
section
/-! SUPPORT. The laws of the frame buffer's memory: a read after a write, what a write leaves alone, and
that every memory operation keeps the canonical form. -/

namespace Sys2Proof.Machine

@[simp] theorem Memory.read_nil (a : Nat) : Memory.read [] a = none := rfl

theorem Memory.read_cons (k : Nat) (v : Byte) (m : Memory) (a : Nat) :
    Memory.read ((k, v) :: m) a = if k = a then some v else Memory.read m a := rfl

/-- A read after a write: the written byte at its address, the old one elsewhere. -/
theorem Memory.read_write (m : Memory) (a : Nat) (b : Byte) (x : Nat) :
    Memory.read (Memory.write m a b) x = if x = a then some b else Memory.read m x := by
  induction m with
  | nil => simp [Memory.write, Memory.read_cons, eq_comm]
  | cons c m ih =>
    obtain ⟨k, v⟩ := c
    simp only [Memory.write]
    split
    · simp [Memory.read_cons, eq_comm]
    · split
      · next heq =>
        subst heq
        by_cases h : k = x
        · simp [Memory.read_cons, h]
        · simp [Memory.read_cons, h, Ne.symm h]
      · by_cases h : x = a <;> simp_all [Memory.read_cons]

@[simp] theorem Memory.read_write_same (m : Memory) (a : Nat) (b : Byte) :
    Memory.read (Memory.write m a b) a = some b := by simp [Memory.read_write]

theorem Memory.read_write_other {a x : Nat} (m : Memory) (b : Byte) (h : x ≠ a) :
    Memory.read (Memory.write m a b) x = Memory.read m x := by simp [Memory.read_write, h]

/-- A written cell is the new one or an old one. -/
theorem Memory.mem_write {m : Memory} {a : Nat} {b : Byte} {c : Host.Cell}
    (h : c ∈ Memory.write m a b) : c = (a, b) ∨ c ∈ m := by
  induction m with
  | nil => simpa [Memory.write] using h
  | cons d m ih =>
    obtain ⟨k, v⟩ := d
    simp only [Memory.write] at h
    split at h
    · simpa using h
    · split at h
      · rcases List.mem_cons.1 h with h | h
        · exact .inl h
        · exact .inr (List.mem_cons_of_mem _ h)
      · rcases List.mem_cons.1 h with h | h
        · exact .inr (h ▸ List.mem_cons_self)
        · exact (ih h).imp_right (List.mem_cons_of_mem _)

/-- A write keeps the canonical form. -/
theorem Memory.write_wf {m : Memory} (hm : m.wf) (a : Nat) (b : Byte) :
    (Memory.write m a b).wf := by
  induction m with
  | nil => simp [Memory.write]
  | cons d m ih =>
    obtain ⟨k, v⟩ := d
    have hm' := List.pairwise_cons.1 hm
    simp only [Memory.write]
    split
    · next hlt =>
      refine List.pairwise_cons.2 ⟨fun c hc => ?_, hm⟩
      rcases List.mem_cons.1 hc with rfl | hc
      · exact hlt
      · exact Nat.lt_trans hlt (hm'.1 c hc)
    · split
      · next heq => subst heq; exact List.pairwise_cons.2 ⟨hm'.1, hm'.2⟩
      · next h1 h2 =>
        refine List.pairwise_cons.2 ⟨fun c hc => ?_, ih hm'.2⟩
        rcases Memory.mem_write hc with rfl | hc
        · exact Nat.lt_of_le_of_ne (Nat.le_of_not_lt h1) h2
        · exact hm'.1 c hc

@[simp] theorem Memory.writeList_nil (m : Memory) (a : Nat) : Memory.writeList m a [] = m := rfl

@[simp] theorem Memory.writeList_cons (m : Memory) (a : Nat) (b : Byte) (bs : List Byte) :
    Memory.writeList m a (b :: bs) = Memory.writeList (Memory.write m a b) (a + 1) bs := rfl

/-- Storing a list keeps the canonical form. -/
theorem Memory.writeList_wf {m : Memory} (hm : m.wf) (a : Nat) (bs : List Byte) :
    (Memory.writeList m a bs).wf := by
  induction bs generalizing m a with
  | nil => exact hm
  | cons b bs ih => exact ih (Memory.write_wf hm a b) (a + 1)

/-- Storing a list leaves every address outside the stored ones alone. -/
theorem Memory.read_writeList_other {m : Memory} {a x : Nat} {bs : List Byte}
    (h : x < a ∨ a + bs.length ≤ x) : Memory.read (Memory.writeList m a bs) x = Memory.read m x := by
  induction bs generalizing m a with
  | nil => rfl
  | cons b bs ih =>
    simp only [List.length_cons] at h
    rw [Memory.writeList_cons, ih (by omega), Memory.read_write_other _ _ (by omega)]

/-- A stored list reads back byte by byte. -/
theorem Memory.read_writeList_same {m : Memory} {a i : Nat} {bs : List Byte} (h : i < bs.length) :
    Memory.read (Memory.writeList m a bs) (a + i) = some bs[i] := by
  induction bs generalizing m a i with
  | nil => simp at h
  | cons b bs ih =>
    cases i with
    | zero => rw [Memory.writeList_cons, Memory.read_writeList_other (by omega)]; simp
    | succ i =>
      have := ih (m := Memory.write m a b) (a := a + 1) (i := i) (by simpa using h)
      rw [show a + (i + 1) = a + 1 + i by omega]
      simpa using this

/-- A stored cell is one of the stored addresses or an old cell. -/
theorem Memory.mem_writeList {m : Memory} {a : Nat} {bs : List Byte} {c : Host.Cell}
    (h : c ∈ Memory.writeList m a bs) : c.1 < a + bs.length ∨ c ∈ m := by
  induction bs generalizing m a with
  | nil => exact .inr h
  | cons b bs ih =>
    rcases ih h with h | h
    · exact .inl (by simp only [List.length_cons]; omega)
    · rcases Memory.mem_write h with rfl | h
      · exact .inl (by simp)
      · exact .inr h

@[simp] theorem Memory.readList_zero (m : Memory) (a : Nat) : m.readList a 0 = some [] := rfl

theorem Memory.readList_succ (m : Memory) (a n : Nat) :
    m.readList a (n + 1) =
      (m.read a).bind fun b => (m.readList (a + 1) n).bind fun bs => some (b :: bs) := by
  rw [Memory.readList]
  cases m.read a <;> cases m.readList (a + 1) n <;> rfl

/-- What a list read says of each byte. -/
theorem Memory.readList_eq_some {m : Memory} {a n : Nat} {F : List Byte} :
    m.readList a n = some F ↔ F.length = n ∧ ∀ i, ∀ h : i < F.length, m.read (a + i) = some F[i] := by
  induction n generalizing a F with
  | zero => cases F <;> simp
  | succ n ih =>
    rw [Memory.readList_succ]
    cases F with
    | nil => cases m.read a <;> cases m.readList (a + 1) n <;> simp
    | cons b F =>
      constructor
      · intro h
        cases hb : m.read a with
        | none => simp [hb] at h
        | some b' =>
          cases hF : m.readList (a + 1) n with
          | none => simp [hb, hF] at h
          | some F' =>
            simp only [hb, hF, Option.bind_some, Option.some.injEq, List.cons.injEq] at h
            obtain ⟨rfl, rfl⟩ := h
            have hF' := ih.1 hF
            refine ⟨by simp [hF'.1], fun i hi => ?_⟩
            cases i with
            | zero => simpa using hb
            | succ i =>
              have := hF'.2 i (by simpa using hi)
              rw [show a + (i + 1) = a + 1 + i by omega]
              simpa using this
      · rintro ⟨hlen, h⟩
        have hb := h 0 (by simp)
        have hF : m.readList (a + 1) n = some F := by
          refine ih.2 ⟨by simpa using hlen, fun i hi => ?_⟩
          have := h (i + 1) (by simpa using hi)
          rw [show a + 1 + i = a + (i + 1) by omega]
          simpa using this
        simp only [Nat.add_zero, List.getElem_cons_zero] at hb
        simp [hb, hF]

/-- A list read is defined where every byte is. -/
theorem Memory.readList_isSome {m : Memory} {a n : Nat}
    (h : ∀ x, a ≤ x → x < a + n → (m.read x).isSome = true) : (m.readList a n).isSome = true := by
  induction n generalizing a with
  | zero => rfl
  | succ n ih =>
    rw [Memory.readList_succ]
    obtain ⟨b, hb⟩ := Option.isSome_iff_exists.1 (h a (by omega) (by omega))
    obtain ⟨F, hF⟩ := Option.isSome_iff_exists.1 (ih (a := a + 1) fun x h1 h2 => h x (by omega) (by omega))
    simp [hb, hF]

/-- Memories that agree on a range read the same list. -/
theorem Memory.readList_congr {m m' : Memory} {a n : Nat}
    (h : ∀ x, a ≤ x → x < a + n → m'.read x = m.read x) : m'.readList a n = m.readList a n := by
  induction n generalizing a with
  | zero => rfl
  | succ n ih =>
    rw [Memory.readList_succ, Memory.readList_succ, h a (by omega) (by omega),
      ih fun x h1 h2 => h x (by omega) (by omega)]

end Sys2Proof.Machine
end

