-- ==== Sys2Proof/Laws/Params.lean ====
section
/-! SUPPORT. What `WF(P)` gives (spec/00_scope.md R8): the derived lengths as sums, and every offset a
rule reads inside its frame. -/

namespace Sys2Proof

@[simp] theorem Params.L_STD_eq (P : Params) : P.L_STD = P.N + 8 := by
  simp only [Params.L_STD, Config.HDR_LEN, Config.TRL_LEN]; omega

@[simp] theorem Params.L_ENG_eq (P : Params) : P.L_ENG = P.N + 26 := by
  simp [Params.L_ENG, Config.ENG_EXTRA]

theorem Params.frameLen_eq (P : Params) (e : Bool) :
    P.frameLen e = if e then P.N + 26 else P.N + 8 := by simp [Params.frameLen]

theorem Params.std_le_frameLen (P : Params) (e : Bool) : P.N + 8 ≤ P.frameLen e := by
  rw [Params.frameLen_eq]; split <;> omega

theorem Params.frameLen_le_eng (P : Params) (e : Bool) : P.frameLen e ≤ P.N + 26 := by
  rw [Params.frameLen_eq]; split <;> omega

@[simp] theorem Params.needMac_eq (P : Params) : P.needMac = P.OFF_MAC + 6 := rfl

@[simp] theorem Params.needFw_eq (P : Params) :
    P.needFw = max (P.OFF_FW_MAJ + 2) (P.OFF_FW_MIN + P.FW_MIN_LEN) := rfl

@[simp] theorem Marker.length_toList (m : Marker) : m.toList.length = 4 := rfl

/-- The clauses of `WF(P)`. -/
theorem Params.wf_iff (P : Params) :
    P.wf = true ↔
      ((4 ≤ P.OFF_TT ∧ P.OFF_TT ≤ P.N + 3) ∧ (4 ≤ P.OFF_ME ∧ P.OFF_ME ≤ P.N + 3) ∧
        (4 ≤ P.OFF_SE ∧ P.OFF_SE ≤ P.N + 3) ∧ (4 ≤ P.OFF_DD ∧ P.OFF_DD ≤ P.N + 3) ∧
        (4 ≤ P.OFF_MD ∧ P.OFF_MD ≤ P.N + 2) ∧ (4 ≤ P.OFF_SD ∧ P.OFF_SD ≤ P.N + 2)) ∧
      ((4 ≤ P.OFF_MG ∧ P.OFF_MG ≤ P.N + 13) ∧ (4 ≤ P.OFF_SG ∧ P.OFF_SG ≤ P.N + 13)) ∧
      (1 ≤ P.ENG_SIG.length ∧ P.ENG_SIG_OFF + P.ENG_SIG.length ≤ P.N + 8) ∧
      (P.N + 26 ≤ P.BUF_CAP ∧ max P.needFw P.needMac + 4 ≤ P.BUF_CAP) ∧
      (4 ≤ P.OFF_FW_MAJ ∧ 4 ≤ P.OFF_FW_MIN ∧ 4 ≤ P.OFF_MAC) ∧ 1 ≤ P.FW_MIN_LEN ∧
      6 ≤ P.CNT_W := by
  simp [Params.wf, Params.standardFieldsOk, Params.byteFieldOk, Params.halfFieldOk,
    Params.gateFieldsOk, Params.signatureOk, Params.bufferOk, Params.ackFieldsOk, Params.minorOk,
    Params.counterOk, and_assoc]

theorem Params.frameLen_le_bufCap {P : Params} (h : P.wf = true) (e : Bool) :
    P.frameLen e ≤ P.BUF_CAP := by
  have := P.frameLen_le_eng e
  have := (P.wf_iff.1 h).2.2.2.1.1
  omega

theorem Params.four_le_bufCap {P : Params} (h : P.wf = true) : 4 ≤ P.BUF_CAP := by
  have := (P.wf_iff.1 h).2.2.2.1.1
  omega

/-- Every standard field lies in a frame of either length, so no rule reads outside it. -/
theorem Params.fields_in_frame {P : Params} (h : P.wf = true) (e : Bool) :
    P.OFF_TT < P.frameLen e ∧ P.OFF_MD + 1 < P.frameLen e ∧ P.OFF_ME < P.frameLen e ∧
      P.OFF_SD + 1 < P.frameLen e ∧ P.OFF_SE < P.frameLen e ∧ P.OFF_DD < P.frameLen e ∧
      P.ENG_SIG_OFF + P.ENG_SIG.length ≤ P.frameLen e := by
  have := P.std_le_frameLen e
  have := P.wf_iff.1 h
  omega

/-- Each gate array lies in an engineering frame. -/
theorem Params.gates_in_frame {P : Params} (h : P.wf = true) :
    P.OFF_MG + 8 < P.frameLen true ∧ P.OFF_SG + 8 < P.frameLen true := by
  have := P.wf_iff.1 h
  rw [Params.frameLen_eq]
  simp only [if_true]
  omega

end Sys2Proof
end

