-- ==== Sys2Proof/Laws/State.lean ====
section
/-! SUPPORT. What each named update of State does to each field: true by rfl or by one case split, tagged
simp, so that no proof unfolds a record update. -/

namespace Sys2Proof.Machine

section emit
variable (x : Signal) (s : State)
@[simp] theorem emit_P : (emit x s).P = s.P := rfl
@[simp] theorem emit_FSM : (emit x s).FSM = s.FSM := rfl
@[simp] theorem emit_STOP_REQ : (emit x s).STOP_REQ = s.STOP_REQ := rfl
@[simp] theorem emit_ENG_MODE : (emit x s).ENG_MODE = s.ENG_MODE := rfl
@[simp] theorem emit_ENG_LATCH : (emit x s).ENG_LATCH = s.ENG_LATCH := rfl
@[simp] theorem emit_WIN : (emit x s).WIN = s.WIN := rfl
@[simp] theorem emit_BUF_LEN : (emit x s).BUF_LEN = s.BUF_LEN := rfl
@[simp] theorem emit_FB : (emit x s).FB = s.FB := rfl
@[simp] theorem emit_FAILCNT : (emit x s).FAILCNT = s.FAILCNT := rfl
@[simp] theorem emit_CSUM_CNT : (emit x s).CSUM_CNT = s.CSUM_CNT := rfl
@[simp] theorem emit_WARN : (emit x s).WARN = s.WARN := rfl
@[simp] theorem emit_FAULT : (emit x s).FAULT = s.FAULT := rfl
@[simp] theorem emit_SLOT_VALID : (emit x s).SLOT_VALID = s.SLOT_VALID := rfl
@[simp] theorem emit_SLOT : (emit x s).SLOT = s.SLOT := rfl
@[simp] theorem emit_stream : (emit x s).stream = s.stream := rfl
@[simp] theorem emit_commands : (emit x s).commands = s.commands := rfl
@[simp] theorem emit_schedule : (emit x s).schedule = s.schedule := rfl
@[simp] theorem emit_signals : (emit x s).signals = s.signals ++ [x] := rfl
@[simp] theorem emit_response : (emit x s).response = s.response := rfl
end emit

section raiseWarning
variable (w : Warning) (s : State)
@[simp] theorem raiseWarning_P : (raiseWarning w s).P = s.P := rfl
@[simp] theorem raiseWarning_FSM : (raiseWarning w s).FSM = s.FSM := rfl
@[simp] theorem raiseWarning_STOP_REQ : (raiseWarning w s).STOP_REQ = s.STOP_REQ := rfl
@[simp] theorem raiseWarning_ENG_MODE : (raiseWarning w s).ENG_MODE = s.ENG_MODE := rfl
@[simp] theorem raiseWarning_ENG_LATCH : (raiseWarning w s).ENG_LATCH = s.ENG_LATCH := rfl
@[simp] theorem raiseWarning_WIN : (raiseWarning w s).WIN = s.WIN := rfl
@[simp] theorem raiseWarning_BUF_LEN : (raiseWarning w s).BUF_LEN = s.BUF_LEN := rfl
@[simp] theorem raiseWarning_FB : (raiseWarning w s).FB = s.FB := rfl
@[simp] theorem raiseWarning_FAILCNT : (raiseWarning w s).FAILCNT = s.FAILCNT := rfl
@[simp] theorem raiseWarning_CSUM_CNT : (raiseWarning w s).CSUM_CNT = s.CSUM_CNT := rfl
@[simp] theorem raiseWarning_WARN : (raiseWarning w s).WARN = s.WARN ||| w.bit := rfl
@[simp] theorem raiseWarning_FAULT : (raiseWarning w s).FAULT = s.FAULT := rfl
@[simp] theorem raiseWarning_SLOT_VALID : (raiseWarning w s).SLOT_VALID = s.SLOT_VALID := rfl
@[simp] theorem raiseWarning_SLOT : (raiseWarning w s).SLOT = s.SLOT := rfl
@[simp] theorem raiseWarning_stream : (raiseWarning w s).stream = s.stream := rfl
@[simp] theorem raiseWarning_commands : (raiseWarning w s).commands = s.commands := rfl
@[simp] theorem raiseWarning_schedule : (raiseWarning w s).schedule = s.schedule := rfl
@[simp] theorem raiseWarning_signals : (raiseWarning w s).signals = s.signals ++ [.warning w] := rfl
@[simp] theorem raiseWarning_response : (raiseWarning w s).response = s.response := rfl
end raiseWarning

section raiseFault
variable (f : HostFault) (s : State)
@[simp] theorem raiseFault_P : (raiseFault f s).P = s.P := rfl
@[simp] theorem raiseFault_FSM : (raiseFault f s).FSM = s.FSM := rfl
@[simp] theorem raiseFault_STOP_REQ : (raiseFault f s).STOP_REQ = s.STOP_REQ := rfl
@[simp] theorem raiseFault_ENG_MODE : (raiseFault f s).ENG_MODE = s.ENG_MODE := rfl
@[simp] theorem raiseFault_ENG_LATCH : (raiseFault f s).ENG_LATCH = s.ENG_LATCH := rfl
@[simp] theorem raiseFault_WIN : (raiseFault f s).WIN = s.WIN := rfl
@[simp] theorem raiseFault_BUF_LEN : (raiseFault f s).BUF_LEN = s.BUF_LEN := rfl
@[simp] theorem raiseFault_FB : (raiseFault f s).FB = s.FB := rfl
@[simp] theorem raiseFault_FAILCNT : (raiseFault f s).FAILCNT = s.FAILCNT := rfl
@[simp] theorem raiseFault_CSUM_CNT : (raiseFault f s).CSUM_CNT = s.CSUM_CNT := rfl
@[simp] theorem raiseFault_WARN : (raiseFault f s).WARN = s.WARN := rfl
@[simp] theorem raiseFault_FAULT : (raiseFault f s).FAULT = s.FAULT ||| f.bit := rfl
@[simp] theorem raiseFault_SLOT_VALID : (raiseFault f s).SLOT_VALID = s.SLOT_VALID := rfl
@[simp] theorem raiseFault_SLOT : (raiseFault f s).SLOT = s.SLOT := rfl
@[simp] theorem raiseFault_stream : (raiseFault f s).stream = s.stream := rfl
@[simp] theorem raiseFault_commands : (raiseFault f s).commands = s.commands := rfl
@[simp] theorem raiseFault_schedule : (raiseFault f s).schedule = s.schedule := rfl
@[simp] theorem raiseFault_signals : (raiseFault f s).signals = s.signals ++ [.fault f] := rfl
@[simp] theorem raiseFault_response : (raiseFault f s).response = s.response := rfl
end raiseFault

section clearWarnings
variable (m : Byte) (s : State)
@[simp] theorem clearWarnings_P : (clearWarnings m s).P = s.P := rfl
@[simp] theorem clearWarnings_FSM : (clearWarnings m s).FSM = s.FSM := rfl
@[simp] theorem clearWarnings_STOP_REQ : (clearWarnings m s).STOP_REQ = s.STOP_REQ := rfl
@[simp] theorem clearWarnings_ENG_MODE : (clearWarnings m s).ENG_MODE = s.ENG_MODE := rfl
@[simp] theorem clearWarnings_ENG_LATCH : (clearWarnings m s).ENG_LATCH = s.ENG_LATCH := rfl
@[simp] theorem clearWarnings_WIN : (clearWarnings m s).WIN = s.WIN := rfl
@[simp] theorem clearWarnings_BUF_LEN : (clearWarnings m s).BUF_LEN = s.BUF_LEN := rfl
@[simp] theorem clearWarnings_FB : (clearWarnings m s).FB = s.FB := rfl
@[simp] theorem clearWarnings_FAILCNT : (clearWarnings m s).FAILCNT = s.FAILCNT := rfl
@[simp] theorem clearWarnings_CSUM_CNT : (clearWarnings m s).CSUM_CNT = s.CSUM_CNT := rfl
@[simp] theorem clearWarnings_WARN : (clearWarnings m s).WARN = s.WARN &&& ~~~m := rfl
@[simp] theorem clearWarnings_FAULT : (clearWarnings m s).FAULT = s.FAULT := rfl
@[simp] theorem clearWarnings_SLOT_VALID : (clearWarnings m s).SLOT_VALID = s.SLOT_VALID := rfl
@[simp] theorem clearWarnings_SLOT : (clearWarnings m s).SLOT = s.SLOT := rfl
@[simp] theorem clearWarnings_stream : (clearWarnings m s).stream = s.stream := rfl
@[simp] theorem clearWarnings_commands : (clearWarnings m s).commands = s.commands := rfl
@[simp] theorem clearWarnings_schedule : (clearWarnings m s).schedule = s.schedule := rfl
@[simp] theorem clearWarnings_signals : (clearWarnings m s).signals = s.signals := rfl
@[simp] theorem clearWarnings_response : (clearWarnings m s).response = s.response := rfl
end clearWarnings

section countByte
variable (s : State)
@[simp] theorem countByte_P : (countByte s).P = s.P := rfl
@[simp] theorem countByte_FSM : (countByte s).FSM = s.FSM := rfl
@[simp] theorem countByte_STOP_REQ : (countByte s).STOP_REQ = s.STOP_REQ := rfl
@[simp] theorem countByte_ENG_MODE : (countByte s).ENG_MODE = s.ENG_MODE := rfl
@[simp] theorem countByte_ENG_LATCH : (countByte s).ENG_LATCH = s.ENG_LATCH := rfl
@[simp] theorem countByte_WIN : (countByte s).WIN = s.WIN := rfl
@[simp] theorem countByte_BUF_LEN : (countByte s).BUF_LEN = s.BUF_LEN := rfl
@[simp] theorem countByte_FB : (countByte s).FB = s.FB := rfl
@[simp] theorem countByte_FAILCNT : (countByte s).FAILCNT = 0 := rfl
@[simp] theorem countByte_CSUM_CNT : (countByte s).CSUM_CNT = s.CSUM_CNT := rfl
@[simp] theorem countByte_WARN : (countByte s).WARN = s.WARN := rfl
@[simp] theorem countByte_FAULT : (countByte s).FAULT = s.FAULT := rfl
@[simp] theorem countByte_SLOT_VALID : (countByte s).SLOT_VALID = s.SLOT_VALID := rfl
@[simp] theorem countByte_SLOT : (countByte s).SLOT = s.SLOT := rfl
@[simp] theorem countByte_stream : (countByte s).stream = s.stream := rfl
@[simp] theorem countByte_commands : (countByte s).commands = s.commands := rfl
@[simp] theorem countByte_schedule : (countByte s).schedule = s.schedule := rfl
@[simp] theorem countByte_signals : (countByte s).signals = s.signals := rfl
@[simp] theorem countByte_response : (countByte s).response = s.response := rfl
end countByte

section countEmpty
variable (s : State)
@[simp] theorem countEmpty_P : (countEmpty s).P = s.P := by simp only [countEmpty]; split <;> rfl
@[simp] theorem countEmpty_FSM : (countEmpty s).FSM = s.FSM := by simp only [countEmpty]; split <;> rfl
@[simp] theorem countEmpty_STOP_REQ : (countEmpty s).STOP_REQ = s.STOP_REQ :=
    by simp only [countEmpty]; split <;> rfl
@[simp] theorem countEmpty_ENG_MODE : (countEmpty s).ENG_MODE = s.ENG_MODE :=
    by simp only [countEmpty]; split <;> rfl
@[simp] theorem countEmpty_ENG_LATCH : (countEmpty s).ENG_LATCH = s.ENG_LATCH :=
    by simp only [countEmpty]; split <;> rfl
@[simp] theorem countEmpty_WIN : (countEmpty s).WIN = s.WIN := by simp only [countEmpty]; split <;> rfl
@[simp] theorem countEmpty_BUF_LEN : (countEmpty s).BUF_LEN = s.BUF_LEN :=
    by simp only [countEmpty]; split <;> rfl
@[simp] theorem countEmpty_FB : (countEmpty s).FB = s.FB := by simp only [countEmpty]; split <;> rfl
@[simp] theorem countEmpty_FAILCNT : (countEmpty s).FAILCNT = satInc s.P.CNT_W s.FAILCNT :=
    by simp only [countEmpty]; split <;> rfl
@[simp] theorem countEmpty_CSUM_CNT : (countEmpty s).CSUM_CNT = s.CSUM_CNT :=
    by simp only [countEmpty]; split <;> rfl
@[simp] theorem countEmpty_WARN : (countEmpty s).WARN = if 32 < satInc s.P.CNT_W s.FAILCNT then s.WARN ||| Warning.baudSuspect.bit else s.WARN :=
    by simp only [countEmpty]; split <;> rfl
@[simp] theorem countEmpty_FAULT : (countEmpty s).FAULT = s.FAULT := by simp only [countEmpty]; split <;> rfl
@[simp] theorem countEmpty_SLOT_VALID : (countEmpty s).SLOT_VALID = s.SLOT_VALID :=
    by simp only [countEmpty]; split <;> rfl
@[simp] theorem countEmpty_SLOT : (countEmpty s).SLOT = s.SLOT := by simp only [countEmpty]; split <;> rfl
@[simp] theorem countEmpty_stream : (countEmpty s).stream = s.stream :=
    by simp only [countEmpty]; split <;> rfl
@[simp] theorem countEmpty_commands : (countEmpty s).commands = s.commands :=
    by simp only [countEmpty]; split <;> rfl
@[simp] theorem countEmpty_schedule : (countEmpty s).schedule = s.schedule :=
    by simp only [countEmpty]; split <;> rfl
@[simp] theorem countEmpty_signals : (countEmpty s).signals = if 32 < satInc s.P.CNT_W s.FAILCNT then s.signals ++ [.warning .baudSuspect] else s.signals :=
    by simp only [countEmpty]; split <;> rfl
@[simp] theorem countEmpty_response : (countEmpty s).response = s.response :=
    by simp only [countEmpty]; split <;> rfl
end countEmpty

section countMismatch
variable (s : State)
@[simp] theorem countMismatch_P : (countMismatch s).P = s.P := rfl
@[simp] theorem countMismatch_FSM : (countMismatch s).FSM = s.FSM := rfl
@[simp] theorem countMismatch_STOP_REQ : (countMismatch s).STOP_REQ = s.STOP_REQ := rfl
@[simp] theorem countMismatch_ENG_MODE : (countMismatch s).ENG_MODE = s.ENG_MODE := rfl
@[simp] theorem countMismatch_ENG_LATCH : (countMismatch s).ENG_LATCH = s.ENG_LATCH := rfl
@[simp] theorem countMismatch_WIN : (countMismatch s).WIN = s.WIN := rfl
@[simp] theorem countMismatch_BUF_LEN : (countMismatch s).BUF_LEN = s.BUF_LEN := rfl
@[simp] theorem countMismatch_FB : (countMismatch s).FB = s.FB := rfl
@[simp] theorem countMismatch_FAILCNT : (countMismatch s).FAILCNT = s.FAILCNT := rfl
@[simp] theorem countMismatch_CSUM_CNT : (countMismatch s).CSUM_CNT = satInc s.P.CNT_W s.CSUM_CNT := rfl
@[simp] theorem countMismatch_WARN : (countMismatch s).WARN = s.WARN ||| Warning.csumMismatch.bit := rfl
@[simp] theorem countMismatch_FAULT : (countMismatch s).FAULT = s.FAULT := rfl
@[simp] theorem countMismatch_SLOT_VALID : (countMismatch s).SLOT_VALID = s.SLOT_VALID := rfl
@[simp] theorem countMismatch_SLOT : (countMismatch s).SLOT = s.SLOT := rfl
@[simp] theorem countMismatch_stream : (countMismatch s).stream = s.stream := rfl
@[simp] theorem countMismatch_commands : (countMismatch s).commands = s.commands := rfl
@[simp] theorem countMismatch_schedule : (countMismatch s).schedule = s.schedule := rfl
@[simp] theorem countMismatch_signals : (countMismatch s).signals = s.signals ++ [.warning .csumMismatch] :=
    rfl
@[simp] theorem countMismatch_response : (countMismatch s).response = s.response := rfl
end countMismatch

section checkTrailer
variable (F : List Byte) (L : Nat) (T : Marker) (s : State)
@[simp] theorem checkTrailer_P : (checkTrailer F L T s).P = s.P := by simp only [checkTrailer]; split <;> rfl
@[simp] theorem checkTrailer_FSM : (checkTrailer F L T s).FSM = s.FSM :=
    by simp only [checkTrailer]; split <;> rfl
@[simp] theorem checkTrailer_STOP_REQ : (checkTrailer F L T s).STOP_REQ = s.STOP_REQ :=
    by simp only [checkTrailer]; split <;> rfl
@[simp] theorem checkTrailer_ENG_MODE : (checkTrailer F L T s).ENG_MODE = s.ENG_MODE :=
    by simp only [checkTrailer]; split <;> rfl
@[simp] theorem checkTrailer_ENG_LATCH : (checkTrailer F L T s).ENG_LATCH = s.ENG_LATCH :=
    by simp only [checkTrailer]; split <;> rfl
@[simp] theorem checkTrailer_WIN : (checkTrailer F L T s).WIN = s.WIN :=
    by simp only [checkTrailer]; split <;> rfl
@[simp] theorem checkTrailer_BUF_LEN : (checkTrailer F L T s).BUF_LEN = s.BUF_LEN :=
    by simp only [checkTrailer]; split <;> rfl
@[simp] theorem checkTrailer_FB : (checkTrailer F L T s).FB = s.FB :=
    by simp only [checkTrailer]; split <;> rfl
@[simp] theorem checkTrailer_FAILCNT : (checkTrailer F L T s).FAILCNT = s.FAILCNT :=
    by simp only [checkTrailer]; split <;> rfl
@[simp] theorem checkTrailer_CSUM_CNT : (checkTrailer F L T s).CSUM_CNT = if trailerOk F L T then s.CSUM_CNT else satInc s.P.CNT_W s.CSUM_CNT :=
    by simp only [checkTrailer]; split <;> rfl
@[simp] theorem checkTrailer_WARN : (checkTrailer F L T s).WARN = if trailerOk F L T then s.WARN else s.WARN ||| Warning.csumMismatch.bit :=
    by simp only [checkTrailer]; split <;> rfl
@[simp] theorem checkTrailer_FAULT : (checkTrailer F L T s).FAULT = s.FAULT :=
    by simp only [checkTrailer]; split <;> rfl
@[simp] theorem checkTrailer_SLOT_VALID : (checkTrailer F L T s).SLOT_VALID = s.SLOT_VALID :=
    by simp only [checkTrailer]; split <;> rfl
@[simp] theorem checkTrailer_SLOT : (checkTrailer F L T s).SLOT = s.SLOT :=
    by simp only [checkTrailer]; split <;> rfl
@[simp] theorem checkTrailer_stream : (checkTrailer F L T s).stream = s.stream :=
    by simp only [checkTrailer]; split <;> rfl
@[simp] theorem checkTrailer_commands : (checkTrailer F L T s).commands = s.commands :=
    by simp only [checkTrailer]; split <;> rfl
@[simp] theorem checkTrailer_schedule : (checkTrailer F L T s).schedule = s.schedule :=
    by simp only [checkTrailer]; split <;> rfl
@[simp] theorem checkTrailer_signals : (checkTrailer F L T s).signals = if trailerOk F L T then s.signals else s.signals ++ [.warning .csumMismatch] :=
    by simp only [checkTrailer]; split <;> rfl
@[simp] theorem checkTrailer_response : (checkTrailer F L T s).response = s.response :=
    by simp only [checkTrailer]; split <;> rfl
end checkTrailer

section enterHunt
variable (s : State)
@[simp] theorem enterHunt_P : (enterHunt s).P = s.P := rfl
@[simp] theorem enterHunt_FSM : (enterHunt s).FSM = .hunt := rfl
@[simp] theorem enterHunt_STOP_REQ : (enterHunt s).STOP_REQ = s.STOP_REQ := rfl
@[simp] theorem enterHunt_ENG_MODE : (enterHunt s).ENG_MODE = s.ENG_MODE := rfl
@[simp] theorem enterHunt_ENG_LATCH : (enterHunt s).ENG_LATCH = s.ENG_LATCH := rfl
@[simp] theorem enterHunt_WIN : (enterHunt s).WIN = Window.holes := rfl
@[simp] theorem enterHunt_BUF_LEN : (enterHunt s).BUF_LEN = 0 := rfl
@[simp] theorem enterHunt_FB : (enterHunt s).FB = s.FB := rfl
@[simp] theorem enterHunt_FAILCNT : (enterHunt s).FAILCNT = s.FAILCNT := rfl
@[simp] theorem enterHunt_CSUM_CNT : (enterHunt s).CSUM_CNT = s.CSUM_CNT := rfl
@[simp] theorem enterHunt_WARN : (enterHunt s).WARN = s.WARN := rfl
@[simp] theorem enterHunt_FAULT : (enterHunt s).FAULT = s.FAULT := rfl
@[simp] theorem enterHunt_SLOT_VALID : (enterHunt s).SLOT_VALID = s.SLOT_VALID := rfl
@[simp] theorem enterHunt_SLOT : (enterHunt s).SLOT = s.SLOT := rfl
@[simp] theorem enterHunt_stream : (enterHunt s).stream = s.stream := rfl
@[simp] theorem enterHunt_commands : (enterHunt s).commands = s.commands := rfl
@[simp] theorem enterHunt_schedule : (enterHunt s).schedule = s.schedule := rfl
@[simp] theorem enterHunt_signals : (enterHunt s).signals = s.signals := rfl
@[simp] theorem enterHunt_response : (enterHunt s).response = s.response := rfl
end enterHunt

section withOutputs
variable (r : Option Response) (s : State)
@[simp] theorem withOutputs_P : (withOutputs r s).P = s.P := rfl
@[simp] theorem withOutputs_FSM : (withOutputs r s).FSM = s.FSM := rfl
@[simp] theorem withOutputs_STOP_REQ : (withOutputs r s).STOP_REQ = s.STOP_REQ := rfl
@[simp] theorem withOutputs_ENG_MODE : (withOutputs r s).ENG_MODE = s.ENG_MODE := rfl
@[simp] theorem withOutputs_ENG_LATCH : (withOutputs r s).ENG_LATCH = s.ENG_LATCH := rfl
@[simp] theorem withOutputs_WIN : (withOutputs r s).WIN = s.WIN := rfl
@[simp] theorem withOutputs_BUF_LEN : (withOutputs r s).BUF_LEN = s.BUF_LEN := rfl
@[simp] theorem withOutputs_FB : (withOutputs r s).FB = s.FB := rfl
@[simp] theorem withOutputs_FAILCNT : (withOutputs r s).FAILCNT = s.FAILCNT := rfl
@[simp] theorem withOutputs_CSUM_CNT : (withOutputs r s).CSUM_CNT = s.CSUM_CNT := rfl
@[simp] theorem withOutputs_WARN : (withOutputs r s).WARN = s.WARN := rfl
@[simp] theorem withOutputs_FAULT : (withOutputs r s).FAULT = s.FAULT := rfl
@[simp] theorem withOutputs_SLOT_VALID : (withOutputs r s).SLOT_VALID = s.SLOT_VALID := rfl
@[simp] theorem withOutputs_SLOT : (withOutputs r s).SLOT = s.SLOT := rfl
@[simp] theorem withOutputs_stream : (withOutputs r s).stream = s.stream := rfl
@[simp] theorem withOutputs_commands : (withOutputs r s).commands = s.commands := rfl
@[simp] theorem withOutputs_schedule : (withOutputs r s).schedule = s.schedule := rfl
@[simp] theorem withOutputs_signals : (withOutputs r s).signals = [] := rfl
@[simp] theorem withOutputs_response : (withOutputs r s).response = r := rfl
end withOutputs

section respond
variable (r : Response) (s : State)
@[simp] theorem respond_P : (respond r s).P = s.P := rfl
@[simp] theorem respond_FSM : (respond r s).FSM = s.FSM := rfl
@[simp] theorem respond_STOP_REQ : (respond r s).STOP_REQ = s.STOP_REQ := rfl
@[simp] theorem respond_ENG_MODE : (respond r s).ENG_MODE = s.ENG_MODE := rfl
@[simp] theorem respond_ENG_LATCH : (respond r s).ENG_LATCH = s.ENG_LATCH := rfl
@[simp] theorem respond_WIN : (respond r s).WIN = s.WIN := rfl
@[simp] theorem respond_BUF_LEN : (respond r s).BUF_LEN = s.BUF_LEN := rfl
@[simp] theorem respond_FB : (respond r s).FB = s.FB := rfl
@[simp] theorem respond_FAILCNT : (respond r s).FAILCNT = s.FAILCNT := rfl
@[simp] theorem respond_CSUM_CNT : (respond r s).CSUM_CNT = s.CSUM_CNT := rfl
@[simp] theorem respond_WARN : (respond r s).WARN = s.WARN := rfl
@[simp] theorem respond_FAULT : (respond r s).FAULT = s.FAULT := rfl
@[simp] theorem respond_SLOT_VALID : (respond r s).SLOT_VALID = s.SLOT_VALID := rfl
@[simp] theorem respond_SLOT : (respond r s).SLOT = s.SLOT := rfl
@[simp] theorem respond_stream : (respond r s).stream = s.stream := rfl
@[simp] theorem respond_commands : (respond r s).commands = s.commands := rfl
@[simp] theorem respond_schedule : (respond r s).schedule = s.schedule := rfl
@[simp] theorem respond_signals : (respond r s).signals = s.signals := rfl
@[simp] theorem respond_response : (respond r s).response = some r := rfl
end respond

section dropFrame
variable (s : State)
@[simp] theorem dropFrame_P : (dropFrame s).P = s.P := rfl
@[simp] theorem dropFrame_FSM : (dropFrame s).FSM = .hunt := rfl
@[simp] theorem dropFrame_STOP_REQ : (dropFrame s).STOP_REQ = s.STOP_REQ := rfl
@[simp] theorem dropFrame_ENG_MODE : (dropFrame s).ENG_MODE = true := rfl
@[simp] theorem dropFrame_ENG_LATCH : (dropFrame s).ENG_LATCH = s.ENG_LATCH := rfl
@[simp] theorem dropFrame_WIN : (dropFrame s).WIN = Window.holes := rfl
@[simp] theorem dropFrame_BUF_LEN : (dropFrame s).BUF_LEN = 0 := rfl
@[simp] theorem dropFrame_FB : (dropFrame s).FB = s.FB := rfl
@[simp] theorem dropFrame_FAILCNT : (dropFrame s).FAILCNT = s.FAILCNT := rfl
@[simp] theorem dropFrame_CSUM_CNT : (dropFrame s).CSUM_CNT = s.CSUM_CNT := rfl
@[simp] theorem dropFrame_WARN : (dropFrame s).WARN = s.WARN ||| Warning.modeDesync.bit := rfl
@[simp] theorem dropFrame_FAULT : (dropFrame s).FAULT = s.FAULT := rfl
@[simp] theorem dropFrame_SLOT_VALID : (dropFrame s).SLOT_VALID = s.SLOT_VALID := rfl
@[simp] theorem dropFrame_SLOT : (dropFrame s).SLOT = s.SLOT := rfl
@[simp] theorem dropFrame_stream : (dropFrame s).stream = s.stream := rfl
@[simp] theorem dropFrame_commands : (dropFrame s).commands = s.commands := rfl
@[simp] theorem dropFrame_schedule : (dropFrame s).schedule = s.schedule := rfl
@[simp] theorem dropFrame_signals : (dropFrame s).signals = s.signals ++ [.warning .modeDesync] := rfl
@[simp] theorem dropFrame_response : (dropFrame s).response = s.response := rfl
end dropFrame

section checkTargetType
variable (c : Byte) (s : State)
@[simp] theorem checkTargetType_P : (checkTargetType c s).P = s.P :=
    by simp only [checkTargetType]; split <;> rfl
@[simp] theorem checkTargetType_FSM : (checkTargetType c s).FSM = s.FSM :=
    by simp only [checkTargetType]; split <;> rfl
@[simp] theorem checkTargetType_STOP_REQ : (checkTargetType c s).STOP_REQ = s.STOP_REQ :=
    by simp only [checkTargetType]; split <;> rfl
@[simp] theorem checkTargetType_ENG_MODE : (checkTargetType c s).ENG_MODE = s.ENG_MODE :=
    by simp only [checkTargetType]; split <;> rfl
@[simp] theorem checkTargetType_ENG_LATCH : (checkTargetType c s).ENG_LATCH = s.ENG_LATCH :=
    by simp only [checkTargetType]; split <;> rfl
@[simp] theorem checkTargetType_WIN : (checkTargetType c s).WIN = s.WIN :=
    by simp only [checkTargetType]; split <;> rfl
@[simp] theorem checkTargetType_BUF_LEN : (checkTargetType c s).BUF_LEN = s.BUF_LEN :=
    by simp only [checkTargetType]; split <;> rfl
@[simp] theorem checkTargetType_FB : (checkTargetType c s).FB = s.FB :=
    by simp only [checkTargetType]; split <;> rfl
@[simp] theorem checkTargetType_FAILCNT : (checkTargetType c s).FAILCNT = s.FAILCNT :=
    by simp only [checkTargetType]; split <;> rfl
@[simp] theorem checkTargetType_CSUM_CNT : (checkTargetType c s).CSUM_CNT = s.CSUM_CNT :=
    by simp only [checkTargetType]; split <;> rfl
@[simp] theorem checkTargetType_WARN : (checkTargetType c s).WARN = if reservedTargetType c then s.WARN ||| Warning.ttInvalid.bit else s.WARN :=
    by simp only [checkTargetType]; split <;> rfl
@[simp] theorem checkTargetType_FAULT : (checkTargetType c s).FAULT = s.FAULT :=
    by simp only [checkTargetType]; split <;> rfl
@[simp] theorem checkTargetType_SLOT_VALID : (checkTargetType c s).SLOT_VALID = s.SLOT_VALID :=
    by simp only [checkTargetType]; split <;> rfl
@[simp] theorem checkTargetType_SLOT : (checkTargetType c s).SLOT = s.SLOT :=
    by simp only [checkTargetType]; split <;> rfl
@[simp] theorem checkTargetType_stream : (checkTargetType c s).stream = s.stream :=
    by simp only [checkTargetType]; split <;> rfl
@[simp] theorem checkTargetType_commands : (checkTargetType c s).commands = s.commands :=
    by simp only [checkTargetType]; split <;> rfl
@[simp] theorem checkTargetType_schedule : (checkTargetType c s).schedule = s.schedule :=
    by simp only [checkTargetType]; split <;> rfl
@[simp] theorem checkTargetType_signals : (checkTargetType c s).signals = if reservedTargetType c then s.signals ++ [.warning .ttInvalid] else s.signals :=
    by simp only [checkTargetType]; split <;> rfl
@[simp] theorem checkTargetType_response : (checkTargetType c s).response = s.response :=
    by simp only [checkTargetType]; split <;> rfl
end checkTargetType

section publish
variable (r : Reading) (s : State)
@[simp] theorem publish_P : (publish r s).P = s.P := rfl
@[simp] theorem publish_FSM : (publish r s).FSM = s.FSM := rfl
@[simp] theorem publish_STOP_REQ : (publish r s).STOP_REQ = s.STOP_REQ := rfl
@[simp] theorem publish_ENG_MODE : (publish r s).ENG_MODE = s.ENG_MODE := rfl
@[simp] theorem publish_ENG_LATCH : (publish r s).ENG_LATCH = s.ENG_LATCH := rfl
@[simp] theorem publish_WIN : (publish r s).WIN = s.WIN := rfl
@[simp] theorem publish_BUF_LEN : (publish r s).BUF_LEN = s.BUF_LEN := rfl
@[simp] theorem publish_FB : (publish r s).FB = s.FB := rfl
@[simp] theorem publish_FAILCNT : (publish r s).FAILCNT = s.FAILCNT := rfl
@[simp] theorem publish_CSUM_CNT : (publish r s).CSUM_CNT = s.CSUM_CNT := rfl
@[simp] theorem publish_WARN : (publish r s).WARN = s.WARN := rfl
@[simp] theorem publish_FAULT : (publish r s).FAULT = s.FAULT := rfl
@[simp] theorem publish_SLOT_VALID : (publish r s).SLOT_VALID = true := rfl
@[simp] theorem publish_SLOT : (publish r s).SLOT = s.SLOT.publish r := rfl
@[simp] theorem publish_stream : (publish r s).stream = s.stream := rfl
@[simp] theorem publish_commands : (publish r s).commands = s.commands := rfl
@[simp] theorem publish_schedule : (publish r s).schedule = s.schedule := rfl
@[simp] theorem publish_signals : (publish r s).signals = s.signals ++ [.publish] := rfl
@[simp] theorem publish_response : (publish r s).response = s.response := rfl
end publish

section honourStop
variable (s : State)
@[simp] theorem honourStop_P : (honourStop s).P = s.P := rfl
@[simp] theorem honourStop_FSM : (honourStop s).FSM = .idle := rfl
@[simp] theorem honourStop_STOP_REQ : (honourStop s).STOP_REQ = false := rfl
@[simp] theorem honourStop_ENG_MODE : (honourStop s).ENG_MODE = s.ENG_MODE := rfl
@[simp] theorem honourStop_ENG_LATCH : (honourStop s).ENG_LATCH = s.ENG_LATCH := rfl
@[simp] theorem honourStop_WIN : (honourStop s).WIN = s.WIN := rfl
@[simp] theorem honourStop_BUF_LEN : (honourStop s).BUF_LEN = 0 := rfl
@[simp] theorem honourStop_FB : (honourStop s).FB = s.FB := rfl
@[simp] theorem honourStop_FAILCNT : (honourStop s).FAILCNT = s.FAILCNT := rfl
@[simp] theorem honourStop_CSUM_CNT : (honourStop s).CSUM_CNT = s.CSUM_CNT := rfl
@[simp] theorem honourStop_WARN : (honourStop s).WARN = s.WARN := rfl
@[simp] theorem honourStop_FAULT : (honourStop s).FAULT = s.FAULT := rfl
@[simp] theorem honourStop_SLOT_VALID : (honourStop s).SLOT_VALID = s.SLOT_VALID := rfl
@[simp] theorem honourStop_SLOT : (honourStop s).SLOT = s.SLOT := rfl
@[simp] theorem honourStop_stream : (honourStop s).stream = s.stream := rfl
@[simp] theorem honourStop_commands : (honourStop s).commands = s.commands := rfl
@[simp] theorem honourStop_schedule : (honourStop s).schedule = s.schedule := rfl
@[simp] theorem honourStop_signals : (honourStop s).signals = s.signals ++ [.stopped] := rfl
@[simp] theorem honourStop_response : (honourStop s).response = s.response := rfl
end honourStop

section afterPublish
variable (s : State)
@[simp] theorem afterPublish_P : (afterPublish s).P = s.P :=
    by cases h : s.STOP_REQ <;> simp [afterPublish, h, honourStop, enterHunt, emit]
@[simp] theorem afterPublish_FSM : (afterPublish s).FSM = if s.STOP_REQ then .idle else .hunt :=
    by cases h : s.STOP_REQ <;> simp [afterPublish, h, honourStop, enterHunt, emit]
@[simp] theorem afterPublish_STOP_REQ : (afterPublish s).STOP_REQ = false :=
    by cases h : s.STOP_REQ <;> simp [afterPublish, h, honourStop, enterHunt, emit]
@[simp] theorem afterPublish_ENG_MODE : (afterPublish s).ENG_MODE = s.ENG_MODE :=
    by cases h : s.STOP_REQ <;> simp [afterPublish, h, honourStop, enterHunt, emit]
@[simp] theorem afterPublish_ENG_LATCH : (afterPublish s).ENG_LATCH = s.ENG_LATCH :=
    by cases h : s.STOP_REQ <;> simp [afterPublish, h, honourStop, enterHunt, emit]
@[simp] theorem afterPublish_WIN : (afterPublish s).WIN = if s.STOP_REQ then s.WIN else Window.holes :=
    by cases h : s.STOP_REQ <;> simp [afterPublish, h, honourStop, enterHunt, emit]
@[simp] theorem afterPublish_BUF_LEN : (afterPublish s).BUF_LEN = 0 :=
    by cases h : s.STOP_REQ <;> simp [afterPublish, h, honourStop, enterHunt, emit]
@[simp] theorem afterPublish_FB : (afterPublish s).FB = s.FB :=
    by cases h : s.STOP_REQ <;> simp [afterPublish, h, honourStop, enterHunt, emit]
@[simp] theorem afterPublish_FAILCNT : (afterPublish s).FAILCNT = s.FAILCNT :=
    by cases h : s.STOP_REQ <;> simp [afterPublish, h, honourStop, enterHunt, emit]
@[simp] theorem afterPublish_CSUM_CNT : (afterPublish s).CSUM_CNT = s.CSUM_CNT :=
    by cases h : s.STOP_REQ <;> simp [afterPublish, h, honourStop, enterHunt, emit]
@[simp] theorem afterPublish_WARN : (afterPublish s).WARN = s.WARN :=
    by cases h : s.STOP_REQ <;> simp [afterPublish, h, honourStop, enterHunt, emit]
@[simp] theorem afterPublish_FAULT : (afterPublish s).FAULT = s.FAULT :=
    by cases h : s.STOP_REQ <;> simp [afterPublish, h, honourStop, enterHunt, emit]
@[simp] theorem afterPublish_SLOT_VALID : (afterPublish s).SLOT_VALID = s.SLOT_VALID :=
    by cases h : s.STOP_REQ <;> simp [afterPublish, h, honourStop, enterHunt, emit]
@[simp] theorem afterPublish_SLOT : (afterPublish s).SLOT = s.SLOT :=
    by cases h : s.STOP_REQ <;> simp [afterPublish, h, honourStop, enterHunt, emit]
@[simp] theorem afterPublish_stream : (afterPublish s).stream = s.stream :=
    by cases h : s.STOP_REQ <;> simp [afterPublish, h, honourStop, enterHunt, emit]
@[simp] theorem afterPublish_commands : (afterPublish s).commands = s.commands :=
    by cases h : s.STOP_REQ <;> simp [afterPublish, h, honourStop, enterHunt, emit]
@[simp] theorem afterPublish_schedule : (afterPublish s).schedule = s.schedule :=
    by cases h : s.STOP_REQ <;> simp [afterPublish, h, honourStop, enterHunt, emit]
@[simp] theorem afterPublish_signals : (afterPublish s).signals = if s.STOP_REQ then s.signals ++ [.stopped] else s.signals :=
    by cases h : s.STOP_REQ <;> simp [afterPublish, h, honourStop, enterHunt, emit]
@[simp] theorem afterPublish_response : (afterPublish s).response = s.response :=
    by cases h : s.STOP_REQ <;> simp [afterPublish, h, honourStop, enterHunt, emit]
end afterPublish

end Sys2Proof.Machine
end

