-- ==== Sys2Proof/Laws/Ops.lean ====
section
/-! SUPPORT. One lemma per shared operation that says everything it can do; later proofs cite these and
do not unfold the operations. -/

namespace Sys2Proof.Machine

/-! ### Steps -/

theorem frameLen_eq (s : State) : s.frameLen = s.P.frameLen s.ENG_LATCH := rfl

@[simp] theorem whenWellFormed_of_wf {s : State} {r : Result} (h : s.P.wf = true) :
    whenWellFormed s r = r := by simp [whenWellFormed, h]

theorem whenWellFormed_of_not_wf {s : State} {r : Result} (h : s.P.wf = false) :
    whenWellFormed s r = .refused .paramsNotWellFormed := by simp [whenWellFormed, h]

theorem whenWellFormed_next {s t : State} {r : Result} (h : whenWellFormed s r = .next t) :
    s.P.wf = true ∧ r = .next t := by
  unfold whenWellFormed at h
  split at h
  · exact ⟨‹_›, h⟩
  · cases h

theorem eventStep_next {s t : State} {k : State → Result} (h : eventStep s k = .next t) :
    s.P.wf = true ∧ k (withOutputs none s) = .next t := whenWellFormed_next h

theorem hostStep_next {s t : State} {k : State → Result} (h : hostStep s k = .next t) :
    s.P.wf = true ∧ k (withOutputs (some .unit) s) = .next t := whenWellFormed_next h

theorem eventStep_of_wf {s : State} {k : State → Result} (h : s.P.wf = true) :
    eventStep s k = k (withOutputs none s) := whenWellFormed_of_wf h

theorem hostStep_of_wf {s : State} {k : State → Result} (h : s.P.wf = true) :
    hostStep s k = k (withOutputs (some .unit) s) := whenWellFormed_of_wf h

theorem waitStep_next {s t : State} (h : waitStep s = .next t) :
    s.P.wf = true ∧ t = withOutputs none s := by
  have := whenWellFormed_next h
  exact ⟨this.1, by cases this.2; rfl⟩

theorem resetStep_next {s t : State} (h : resetStep s = .next t) :
    s.P.wf = true ∧ t = applyReset s := by
  have := whenWellFormed_next h
  exact ⟨this.1, by cases this.2; rfl⟩

/-! ### The frame buffer -/

/-- A store followed by a continuation either stores inside `FB` or stops. -/
theorem storeThen_next {s t : State} {a : Nat} {bs : List Byte} {k : State → Result}
    (h : storeThen s a bs k = .next t) :
    a + bs.length ≤ s.P.BUF_CAP ∧ k { s with FB := s.FB.writeList a bs } = .next t := by
  unfold storeThen at h
  split at h
  · exact ⟨‹_›, h⟩
  · cases h

theorem storeThen_of_le {s : State} {a : Nat} {bs : List Byte} {k : State → Result}
    (h : a + bs.length ≤ s.P.BUF_CAP) :
    storeThen s a bs k = k { s with FB := s.FB.writeList a bs } := by simp [storeThen, h]

theorem storeThen_of_lt {s : State} {a : Nat} {bs : List Byte} {k : State → Result}
    (h : s.P.BUF_CAP < a + bs.length) :
    storeThen s a bs k = .fault (.noBufferAddress (a + bs.length - 1)) := by
  simp [storeThen, Nat.not_le.2 h]

/-- `MemRead` answers exactly the listed bytes, inside the valid ones. -/
theorem memRead_eq_some {s : State} {a n : Nat} {F : List Byte} :
    s.memRead a n = some F ↔
      a + n ≤ s.BUF_LEN ∧ F.length = n ∧ ∀ i, ∀ h : i < F.length, s.FB.read (a + i) = some F[i] := by
  unfold State.memRead
  split
  · simp [Memory.readList_eq_some, *]
  · simp [*]

/-- Where the valid bytes are written bytes, `MemRead` inside them is defined. -/
theorem memRead_isSome {s : State} {a n : Nat} (h : a + n ≤ s.BUF_LEN)
    (hf : ∀ x < s.BUF_LEN, (s.FB.read x).isSome = true) : (s.memRead a n).isSome = true := by
  simp only [State.memRead, h, if_true]
  exact Memory.readList_isSome fun x _ h2 => hf x (by omega)

/-! ### Flags and counters -/

/-- A saturating counter stays in its width (R11). -/
theorem satInc_lt {W c : Nat} (h : c < 2 ^ W) : satInc W c < 2 ^ W := by
  unfold satInc; split <;> omega

theorem le_satInc (W c : Nat) : c ≤ satInc W c := by
  unfold satInc; split <;> omega

/-- Inside its width the increment saturates (R11). -/
theorem satInc_eq_min {W c : Nat} (h : c < 2 ^ W) : satInc W c = min (c + 1) (2 ^ W - 1) := by
  unfold satInc; split <;> omega

/-- Bit 7 of `WARN` cannot be set (R41). -/
theorem Warning.bit_getElem_seven (w : Warning) : w.bit[7] = false := by cases w <;> rfl

/-! ### Operands -/

@[simp] theorem length_slice {F : List Byte} {a n : Nat} (h : a + n ≤ F.length) :
    (slice F a n).length = n := by simp [slice]; omega

/-- A slice is made of the bytes at its offsets. -/
theorem getElem_slice {F : List Byte} {a n i : Nat} (h : i < (slice F a n).length) :
    (slice F a n)[i] = byteAt F (a + i) := by
  have hi : a + i < F.length := by simp [slice] at h; omega
  simp [slice, byteAt, List.getD_eq_getElem?_getD, hi]

@[simp] theorem gateArray_getElem (F : List Byte) (a i : Nat) (h : i < 9) :
    (gateArray F a)[i] = byteAt F (a + i) := by simp [gateArray]

/-- `le16` is the little-endian value (R11). -/
theorem le16_toNat (lo hi : Byte) : (le16 lo hi).toNat = lo.toNat + 256 * hi.toNat := by
  simp only [le16, BitVec.toNat_append]
  rw [Nat.shiftLeft_eq, ← Nat.shiftLeft_eq, ← Nat.shiftLeft_add_eq_or_of_lt lo.isLt, Nat.shiftLeft_eq]
  omega

/-- The arrays delivered of a published reading are that reading's (R186, R224). -/
@[simp] theorem Slot.reading_publish (S : Slot) (r : Reading) : (S.publish r).reading = r := by
  obtain ⟨TT, MD, ME, SD, SE, DD, gates⟩ := r
  cases gates <;> simp [Slot.reading, Slot.publish]

theorem extract_gates_isSome (P : Params) (latch : Bool) (F : List Byte) :
    (extract P latch F).gates.isSome = latch := by
  cases latch <;> simp [extract, extractGates]

/-- A header match says what each entry of the window is (R117). -/
theorem headerMatch_iff (P : Params) (W : Window) :
    headerMatch P W = true ↔
      W = ⟨.byte P.HDR_TLM.b0, .byte P.HDR_TLM.b1, .byte P.HDR_TLM.b2, .byte P.HDR_TLM.b3⟩ := by
  obtain ⟨⟨v0, d0⟩, ⟨v1, d1⟩, ⟨v2, d2⟩, ⟨v3, d3⟩⟩ := W
  simp [headerMatch, Entry.holds, Entry.byte, and_assoc]

/-! ### Frame completion -/

/-- After a store a COLLECT byte is counted, or the whole frame is read and completed. -/
theorem afterStore_next {s t : State} (h : afterStore s = .next t) :
    (s.BUF_LEN + 1 < s.frameLen ∧ t = { s with BUF_LEN := s.BUF_LEN + 1 }) ∨
      (s.frameLen ≤ s.BUF_LEN + 1 ∧
        ∃ F, s.FB.readList 0 s.frameLen = some F ∧ t = completeFrame F s) := by
  unfold afterStore at h
  split at h
  · cases h; exact .inl ⟨‹_›, rfl⟩
  · split at h
    · cases h
    · next F hF => cases h; exact .inr ⟨by omega, F, hF, rfl⟩

/-- A completed frame is dropped by the heuristic or delivered, and nothing else (R188). -/
theorem completeFrame_cases (F : List Byte) (s : State) :
    (s.ENG_LATCH = false ∧ engSig s.P F = true ∧ completeFrame F s = dropFrame s) ∨
      ((s.ENG_LATCH = true ∨ engSig s.P F = false) ∧ completeFrame F s = deliverFrame F s) := by
  unfold completeFrame
  cases s.ENG_LATCH <;> cases engSig s.P F <;> simp

/-! ### Acknowledgments -/

theorem whenIdle_next {s t : State} {k : State → Result} (h : whenIdle s k = .next t) :
    (s.FSM = .idle ∧ k s = .next t) ∨ (s.FSM ≠ .idle ∧ t = raiseFault .busy s) := by
  unfold whenIdle at h
  split at h
  · exact .inl ⟨‹_›, h⟩
  · cases h; exact .inr ⟨‹_›, rfl⟩

/-- A decode command that goes on was refused as busy, refused by its precondition, or answered from the
valid bytes of `FB`; only counters, flags and outputs change. -/
theorem decodeAck_next {s t : State} {need : Nat} {answer : List Byte → Response}
    (h : decodeAck need answer s = .next t) :
    (s.FSM ≠ .idle ∧ t = raiseFault .busy (respond .noFields s)) ∨
      (s.FSM = .idle ∧ t = raiseFault .decPrecond (respond .noFields s)) ∨
      (s.FSM = .idle ∧ decFits need s = true ∧
        ∃ F, s.memRead 0 s.BUF_LEN = some F ∧ startsWith F s.P.HDR_ACK = true ∧
          t = respond (answer F) (checkTrailer F s.BUF_LEN s.P.TRL_ACK (respond .noFields s))) := by
  rcases whenIdle_next h with ⟨hi, h⟩ | ⟨hi, rfl⟩
  · refine .inr ?_
    split at h
    · next hd =>
      split at h
      · cases h
      · next F hF =>
        split at h
        · next hs => cases h; exact .inr ⟨hi, hd, F, hF, hs, rfl⟩
        · cases h; exact .inl ⟨hi, rfl⟩
    · cases h; exact .inl ⟨hi, rfl⟩
  · exact .inl ⟨hi, rfl⟩

/-! ### Ports -/

/-- A step is one of these, by whose turn it is. -/
theorem step_cases (s : State) :
    (s.schedule = [] ∧ step s = waitStep s) ∨
      (∃ ts, s.schedule = .event :: ts ∧ step s = eventTurn { s with schedule := ts }) ∨
      (∃ ts, s.schedule = .host :: ts ∧ step s = hostTurn { s with schedule := ts }) ∨
      (∃ ts, s.schedule = .reset :: ts ∧ step s = resetStep { s with schedule := ts }) := by
  unfold step
  split <;> simp_all

theorem eventTurn_cases (s : State) :
    ((s.stream = [] ∨ s.FSM = .idle) ∧ eventTurn s = waitStep s) ∨
      (s.FSM ≠ .idle ∧ ∃ w ws, s.stream = w :: ws ∧
        eventTurn s = exec (decodeEvent w) { s with stream := ws }) := by
  unfold eventTurn
  cases h : s.stream with
  | nil => simp
  | cons w ws => cases h2 : s.FSM <;> simp [State.eventsEnabled, h2, runEventWord]

theorem hostTurn_cases (s : State) :
    (s.commands = [] ∧ hostTurn s = waitStep s) ∨
      ∃ w ws, s.commands = w :: ws ∧
        ((∃ i, decodeCommand w = .ok i ∧ hostTurn s = exec i { s with commands := ws }) ∨
          (∃ r, decodeCommand w = .error r ∧ hostTurn s = execIllegal { s with commands := ws })) := by
  unfold hostTurn
  cases h : s.commands with
  | nil => simp
  | cons w ws => cases h2 : decodeCommand w <;> simp [runCommandWord, h2]

/-- A word placed where the machine takes its word is the word the next step takes. -/
theorem step_placeWord_command (s : State) (w : CommandWord) :
    step (placeWord s (.command w)) = runCommandWord w s := by
  obtain ⟨⟩ := s; rfl

end Sys2Proof.Machine
end

