-- ==== Sys2Proof/Laws/Exec.lean ====
section
/-! SUPPORT. What each instruction can answer when it goes on, one inversion lemma per meaning: whole-
machine proofs are case splits over these. -/

namespace Sys2Proof.Machine

theorem matchHeader_next {s t : State} (h : matchHeader s = .next t) :
    4 ≤ s.P.BUF_CAP ∧
      t = emit .sync
        { s with
          FB := s.FB.writeList 0 s.P.HDR_TLM.toList
          ENG_LATCH := s.ENG_MODE
          BUF_LEN := 4
          FSM := .collect } := by
  obtain ⟨hc, h⟩ := storeThen_next h
  cases h
  exact ⟨by simpa using hc, rfl⟩

theorem huntByte_next {s t : State} {b : Byte} (h : huntByte b s = .next t) :
    (headerMatch s.P (s.WIN.shift (.byte b)) = false ∧
        t = { countByte s with WIN := s.WIN.shift (.byte b) }) ∨
      (headerMatch s.P (s.WIN.shift (.byte b)) = true ∧
        matchHeader { countByte s with WIN := s.WIN.shift (.byte b) } = .next t) := by
  unfold huntByte at h
  dsimp only at h
  split at h
  · exact .inr ⟨‹_›, h⟩
  · next hn => cases h; exact .inl ⟨by simpa using hn, rfl⟩

theorem collectByte_next {s t : State} {b : Byte} (h : collectByte b s = .next t) :
    s.BUF_LEN < s.P.BUF_CAP ∧
      afterStore { countByte s with FB := s.FB.write s.BUF_LEN b } = .next t := by
  obtain ⟨hc, h⟩ := storeThen_next h
  exact ⟨by simpa using hc, by simpa using h⟩

theorem evByte_next {s t : State} {b : Byte} (h : exec (.evByte b) s = .next t) :
    s.P.wf = true ∧
      ((s.FSM = .idle ∧ t = withOutputs none s) ∨
        (s.FSM = .hunt ∧ huntByte b (withOutputs none s) = .next t) ∨
        (s.FSM = .collect ∧ collectByte b (withOutputs none s) = .next t)) := by
  simp only [exec, execEvByte] at h
  obtain ⟨hw, h⟩ := eventStep_next h
  refine ⟨hw, ?_⟩
  split at h
  · cases h; exact .inl ⟨by simpa using ‹_›, rfl⟩
  · exact .inr (.inl ⟨by simpa using ‹_›, h⟩)
  · exact .inr (.inr ⟨by simpa using ‹_›, h⟩)

theorem evEmpty_next {s t : State} (h : exec .evEmpty s = .next t) :
    s.P.wf = true ∧
      ((s.FSM = .idle ∧ t = withOutputs none s) ∨
        (s.FSM = .hunt ∧
          t = { countEmpty (withOutputs none s) with WIN := s.WIN.shift .hole }) ∨
        (s.FSM = .collect ∧
          t = enterHunt (raiseWarning .frameAbort (countEmpty (withOutputs none s))))) := by
  simp only [exec, execEvEmpty] at h
  obtain ⟨hw, h⟩ := eventStep_next h
  refine ⟨hw, ?_⟩
  split at h <;> cases h
  · exact .inl ⟨by simpa using ‹_›, rfl⟩
  · exact .inr (.inl ⟨by simpa using ‹_›, rfl⟩)
  · exact .inr (.inr ⟨by simpa using ‹_›, rfl⟩)

theorem nop_next {s t : State} (h : exec .nop s = .next t) :
    s.P.wf = true ∧ t = withOutputs (some .unit) s := by
  obtain ⟨hw, h⟩ := hostStep_next (k := fun s => .next s) h
  cases h; exact ⟨hw, rfl⟩

theorem start_next {s t : State} (h : exec .start s = .next t) :
    s.P.wf = true ∧
      ((s.FSM = .idle ∧
          t = emit .started (enterHunt { withOutputs (some .unit) s with STOP_REQ := false })) ∨
        (s.FSM ≠ .idle ∧ t = raiseWarning .opIgnored (withOutputs (some .unit) s))) := by
  simp only [exec, execStart] at h
  obtain ⟨hw, h⟩ := hostStep_next h
  refine ⟨hw, ?_⟩
  split at h <;> cases h
  · exact .inl ⟨by simpa using ‹_›, rfl⟩
  · exact .inr ⟨by simpa using ‹_›, rfl⟩

theorem stop_next {s t : State} (h : exec .stop s = .next t) :
    s.P.wf = true ∧
      ((s.FSM = .idle ∧ t = raiseWarning .opIgnored (withOutputs (some .unit) s)) ∨
        (s.FSM ≠ .idle ∧ t = { withOutputs (some .unit) s with STOP_REQ := true })) := by
  simp only [exec, execStop] at h
  obtain ⟨hw, h⟩ := hostStep_next h
  refine ⟨hw, ?_⟩
  split at h <;> cases h
  · exact .inl ⟨by simpa using ‹_›, rfl⟩
  · exact .inr ⟨by simpa using ‹_›, rfl⟩

theorem setEng_next {s t : State} {v : Bool} (h : exec (.setEng v) s = .next t) :
    s.P.wf = true ∧ t = { withOutputs (some .unit) s with ENG_MODE := v } := by
  simp only [exec, execSetEng] at h
  obtain ⟨hw, h⟩ := hostStep_next h
  cases h; exact ⟨hw, rfl⟩

theorem getData_next {s t : State} (h : exec .getData s = .next t) :
    s.P.wf = true ∧
      ((s.SLOT_VALID = true ∧
          t = respond (.reading s.SLOT.reading) (withOutputs (some .unit) s)) ∨
        (s.SLOT_VALID = false ∧
          t = respond .empty (raiseWarning .emptyRead (withOutputs (some .unit) s)))) := by
  simp only [exec, execGetData] at h
  obtain ⟨hw, h⟩ := hostStep_next h
  refine ⟨hw, ?_⟩
  split at h
  · next hv => cases h; exact .inl ⟨by simpa using hv, rfl⟩
  · next hv => cases h; exact .inr ⟨by simpa using hv, rfl⟩

theorem getStatus_next {s t : State} (h : exec .getStatus s = .next t) :
    s.P.wf = true ∧ t = respond (.status s.statusRegs) (withOutputs (some .unit) s) := by
  simp only [exec, execGetStatus] at h
  obtain ⟨hw, h⟩ := hostStep_next h
  cases h; exact ⟨hw, rfl⟩

theorem clrWarn_next {s t : State} {m : Byte} (h : exec (.clrWarn m) s = .next t) :
    s.P.wf = true ∧ t = clearWarnings m (withOutputs (some .unit) s) := by
  simp only [exec, execClrWarn] at h
  obtain ⟨hw, h⟩ := hostStep_next h
  cases h; exact ⟨hw, rfl⟩

theorem illegal_next {s t : State} (h : execIllegal s = .next t) :
    s.P.wf = true ∧ t = raiseFault .illegalCmd (withOutputs (some .unit) s) := by
  obtain ⟨hw, h⟩ := hostStep_next h
  cases h; exact ⟨hw, rfl⟩

theorem bufClr_next {s t : State} (h : exec .bufClr s = .next t) :
    s.P.wf = true ∧
      ((s.FSM = .idle ∧ t = { withOutputs (some .unit) s with BUF_LEN := 0 }) ∨
        (s.FSM ≠ .idle ∧ t = raiseFault .busy (withOutputs (some .unit) s))) := by
  simp only [exec, execBufClr] at h
  obtain ⟨hw, h⟩ := hostStep_next h
  refine ⟨hw, ?_⟩
  rcases whenIdle_next h with ⟨hi, h⟩ | ⟨hi, h⟩ <;> cases h
  · exact .inl ⟨hi, rfl⟩
  · exact .inr ⟨hi, rfl⟩

theorem bufPush_next {s t : State} {b : Byte} (h : exec (.bufPush b) s = .next t) :
    s.P.wf = true ∧
      ((s.FSM ≠ .idle ∧ t = raiseFault .busy (withOutputs (some .unit) s)) ∨
        (s.FSM = .idle ∧ s.BUF_LEN = s.P.BUF_CAP ∧
          t = raiseFault .bufOvf (withOutputs (some .unit) s)) ∨
        (s.FSM = .idle ∧ s.BUF_LEN < s.P.BUF_CAP ∧
          t = { withOutputs (some .unit) s with
                  FB := s.FB.write s.BUF_LEN b, BUF_LEN := s.BUF_LEN + 1 })) := by
  simp only [exec, execBufPush] at h
  obtain ⟨hw, h⟩ := hostStep_next h
  refine ⟨hw, ?_⟩
  rcases whenIdle_next h with ⟨hi, h⟩ | ⟨hi, h⟩
  · split at h
    · cases h; exact .inr (.inl ⟨hi, by simpa using ‹_›, rfl⟩)
    · obtain ⟨hc, h⟩ := storeThen_next h
      cases h
      exact .inr (.inr ⟨hi, by simpa using hc, rfl⟩)
  · cases h; exact .inl ⟨hi, rfl⟩

theorem decFw_next {s t : State} (h : exec .decFw s = .next t) :
    s.P.wf = true ∧
      decodeAck s.P.needFw (firmwareFields s.P) (withOutputs (some .unit) s) = .next t := by
  simp only [exec, execDecFw] at h
  exact hostStep_next h

theorem decMac_next {s t : State} (h : exec .decMac s = .next t) :
    s.P.wf = true ∧
      decodeAck s.P.needMac (addressField s.P) (withOutputs (some .unit) s) = .next t := by
  simp only [exec, execDecMac] at h
  exact hostStep_next h

end Sys2Proof.Machine
end

