-- ==== Sys2Proof/Laws/PerInstr.lean ====
section
/-! SUPPORT. Statements made once per instruction. `Opcode`: an instruction's canonical word selects the
row of the opcode map that stands for it (spec/30_encoding.md R102, R103, R105). -/

namespace Sys2Proof.Laws

/-- The canonical word of an event has `E` as R102 and R103 give it; the canonical word of a command
selects the row of its mnemonic and no other. -/
def Opcode.Statement (i : Instr) : Prop :=
  match encode i with
  | .event w => i.isEvent = true ∧ (EventWord.E w = 1 ↔ i = .evEmpty)
  | .command w => i.isHost = true ∧ (commandRows.filter (·.selects w)).map (·.mnemonic) = [i.mnemonic]

theorem Opcode.evByte (b : Byte) : Opcode.Statement (.evByte b) := by
  refine ⟨rfl, ?_⟩
  simp only [reduceCtorEq, iff_false]
  revert b
  decide

theorem Opcode.evEmpty : Opcode.Statement .evEmpty := ⟨rfl, by decide⟩
theorem Opcode.nop : Opcode.Statement .nop := ⟨rfl, by decide⟩
theorem Opcode.start : Opcode.Statement .start := ⟨rfl, by decide⟩
theorem Opcode.stop : Opcode.Statement .stop := ⟨rfl, by decide⟩
theorem Opcode.setEng (v : Bool) : Opcode.Statement (.setEng v) := ⟨rfl, by revert v; decide⟩
theorem Opcode.getData : Opcode.Statement .getData := ⟨rfl, by decide⟩
theorem Opcode.getStatus : Opcode.Statement .getStatus := ⟨rfl, by decide⟩
theorem Opcode.clrWarn (m : Byte) : Opcode.Statement (.clrWarn m) := ⟨rfl, by revert m; decide⟩
theorem Opcode.bufClr : Opcode.Statement .bufClr := ⟨rfl, by decide⟩
theorem Opcode.bufPush (b : Byte) : Opcode.Statement (.bufPush b) := ⟨rfl, by revert b; decide⟩
theorem Opcode.decFw : Opcode.Statement .decFw := ⟨rfl, by decide⟩
theorem Opcode.decMac : Opcode.Statement .decMac := ⟨rfl, by decide⟩

end Sys2Proof.Laws
end

