-- ==== Sys2Proof/Tests/Slice0.lean ====
section
/-! SUPPORT. The model's own tests. Expected values are the spec's: the vectors V-… of
spec/95_test_vectors.md under `P_TEST`, and words written out from spec/30_encoding.md. After them, for
every statement with hypotheses, a witness that meets them, clause by clause. -/

namespace Sys2Proof.Tests

open Sys2Proof Sys2Proof.Machine

/-! ### Small states -/

/-- `FA` of the vectors, a standard frame. -/
def frameA : List Byte :=
  [0xF4, 0xF3, 0xF2, 0xF1, 0x0D, 0x00, 0x02, 0xAA, 0x01, 0x64, 0x00, 0x32, 0x00, 0x00, 0x00, 0x64,
    0x00, 0x55, 0x00, 0xF8, 0xF7, 0xF6, 0xF5]

/-- `FE`, an engineering frame. -/
def frameE : List Byte :=
  [0xF4, 0xF3, 0xF2, 0xF1, 0x1F, 0x00, 0x01, 0xAA, 0x03, 0x78, 0x00, 0x50, 0xC8, 0x00, 0x5A, 0xC8,
    0x00, 0x55, 0x00, 0x0A, 0x14, 0x1E, 0x28, 0x32, 0x3C, 0x46, 0x50, 0x5A, 0x00, 0x00, 0xFF, 0x01,
    0x02, 0x03, 0x04, 0x05, 0x06, 0xF8, 0xF7, 0xF6, 0xF5]

/-- `AFW`, a firmware acknowledgment. -/
def ackFw : List Byte :=
  [0xFD, 0xFC, 0xFB, 0xFA, 0x0C, 0x00, 0xA0, 0x01, 0x00, 0x00, 0x00, 0x01, 0x07, 0x01, 0x15, 0x16,
    0x09, 0x22, 0x04, 0x03, 0x02, 0x01]

/-- `AMAC`, an address acknowledgment. -/
def ackMac : List Byte :=
  [0xFD, 0xFC, 0xFB, 0xFA, 0x0A, 0x00, 0xA5, 0x01, 0x00, 0x00, 0x8F, 0x27, 0x2E, 0xB8, 0x0F, 0x65,
    0x04, 0x03, 0x02, 0x01]

/-- HUNT with an empty window. -/
def hunting : State := { State.reset with FSM := .hunt }

/-- HUNT with the first 3 header bytes in the window. -/
def nearHeader : State :=
  { hunting with WIN := ⟨Entry.hole, .byte 0xF4, .byte 0xF3, .byte 0xF2⟩ }

/-- COLLECT with these bytes in `FB`. -/
def collecting (latch : Bool) (F : List Byte) : State :=
  { State.reset with
    FSM := .collect
    ENG_LATCH := latch
    BUF_LEN := F.length
    FB := Memory.writeList [] 0 F }

/-- IDLE with these bytes pushed. -/
def holding (F : List Byte) : State :=
  { State.reset with BUF_LEN := F.length, FB := Memory.writeList [] 0 F }

/-- A field of the state an instruction goes on in. -/
def after {α : Type} (i : Instr) (s : State) (f : State → α) : Option α :=
  (Result.next? (exec i s)).map f

/-- The GET_STATUS tuple of the vectors. -/
def tuple (s : State) : List Nat :=
  [s.ctrl.toNat, s.status.toNat, s.WARN.toNat, s.FAULT.toNat, s.FAILCNT, s.CSUM_CNT, s.BUF_LEN]

/-! ### Parameters: V-P1 to V-P4, and one ill-formed record for each other check -/

theorem test_pTest_wf : Params.pTest.wf = true := by decide
theorem test_lengths : Params.pTest.L_STD = 23 ∧ Params.pTest.L_ENG = 41 := by decide
theorem smoke_standardFields : ({ Params.pTest with OFF_TT := 19 } : Params).wf = false := by decide
theorem smoke_standardFields_low : ({ Params.pTest with OFF_DD := 3 } : Params).wf = false := by
  decide
theorem smoke_halfFields : ({ Params.pTest with OFF_MD := 18 } : Params).wf = false := by decide
theorem smoke_gateFields : ({ Params.pTest with OFF_SG := 29 } : Params).wf = false := by decide
theorem smoke_signature : ({ Params.pTest with ENG_SIG := [] } : Params).wf = false := by decide
theorem smoke_signature_end : ({ Params.pTest with ENG_SIG_OFF := 23 } : Params).wf = false := by
  decide
theorem smoke_buffer : ({ Params.pTest with BUF_CAP := 40 } : Params).wf = false := by decide
theorem smoke_buffer_ack : ({ Params.pTest with OFF_MAC := 55 } : Params).wf = false := by decide
theorem smoke_ackFields : ({ Params.pTest with OFF_FW_MAJ := 3 } : Params).wf = false := by decide
theorem smoke_minor : ({ Params.pTest with FW_MIN_LEN := 0 } : Params).wf = false := by decide
theorem smoke_counter : ({ Params.pTest with CNT_W := 5 } : Params).wf = false := by decide

/-! ### Decoding: every constructor, from a word written out bit by bit (V-E1 to V-E12) -/

theorem test_decode_evByte : decodeEvent 0b011110100 = .evByte 0xF4 := by decide
theorem test_decode_evByte_zero : decodeEvent 0b000000000 = .evByte 0 := by decide
theorem test_decode_evEmpty : decodeEvent 0b100000000 = .evEmpty := by decide
theorem test_decode_evEmpty_ignores_D : decodeEvent 0b110100101 = .evEmpty := by decide
theorem test_decode_nop : decodeCommand 0b000000000000 = .ok .nop := by rfl
theorem test_decode_start : decodeCommand 0b000100000000 = .ok .start := by rfl
theorem test_decode_stop : decodeCommand 0b001000000000 = .ok .stop := by rfl
theorem test_decode_setEng_0 : decodeCommand 0b001100000000 = .ok (.setEng false) := by rfl
theorem test_decode_setEng_1 : decodeCommand 0b001100000001 = .ok (.setEng true) := by rfl
theorem test_decode_getData : decodeCommand 0b010000000000 = .ok .getData := by rfl
theorem test_decode_getStatus : decodeCommand 0b010100000000 = .ok .getStatus := by rfl
theorem test_decode_clrWarn : decodeCommand 0b011001111111 = .ok (.clrWarn 0x7F) := by rfl
theorem test_decode_bufClr : decodeCommand 0b011100000000 = .ok .bufClr := by rfl
theorem test_decode_bufPush : decodeCommand 0b100011111101 = .ok (.bufPush 0xFD) := by rfl
theorem test_decode_decFw : decodeCommand 0b100100000000 = .ok .decFw := by rfl
theorem test_decode_decMac : decodeCommand 0b101000000000 = .ok .decMac := by rfl
theorem test_decode_stray_arg : decodeCommand 0x101 = .error .strayArg := by rfl
theorem test_decode_setEng_arg : decodeCommand 0x302 = .error .setEngArg := by rfl
theorem test_decode_reserved : decodeCommand 0xB00 = .error .reservedOp := by rfl

/-! ### Instructions, one step each -/

/-- V-S1: the 4th header byte matches. -/
theorem test_evByte_match :
    after (.evByte 0xF1) nearHeader (fun t => (t.FSM, t.BUF_LEN, t.FB.readList 0 4, t.signals)) =
      some (.collect, 4, some [0xF4, 0xF3, 0xF2, 0xF1], [.sync]) := by decide

/-- V-D1: the last byte of `FA` publishes. -/
theorem test_evByte_publish :
    after (.evByte 0xF5) (collecting false (frameA.take 22)) (fun t => (tuple t, t.SLOT.reading)) =
      some ([0, 9, 0, 0, 0, 0, 0], ⟨0x01, 100, 50, 0, 0, 100, none⟩) := by decide

/-- R142's example: the 33rd empty read in HUNT. -/
theorem test_evEmpty_hunt :
    after .evEmpty { hunting with FAILCNT := 32 } (fun t => (t.FAILCNT, t.WARN, t.signals, t.FSM)) =
      some (33, 0x04, [.warning .baudSuspect], .hunt) := by decide

/-- V-D10: an abort one byte short. -/
theorem test_evEmpty_abort :
    after .evEmpty (collecting false (frameA.take 22)) tuple = some [0, 1, 0x10, 0, 1, 0, 0] := by
  decide

/-- V-H14. -/
theorem test_nop : after .nop hunting tuple = some (tuple hunting) := by decide

/-- V-H3. -/
theorem test_start : after .start State.reset tuple = some [0, 1, 0, 0, 0, 0, 0] := by decide

/-- V-H4. -/
theorem test_start_running : after .start hunting tuple = some [0, 1, 0x40, 0, 0, 0, 0] := by decide

/-- V-H6, first STOP. -/
theorem test_stop : after .stop hunting tuple = some [0, 5, 0, 0, 0, 0, 0] := by decide

/-- V-H5. -/
theorem test_stop_idle : after .stop State.reset tuple = some [0, 0, 0x40, 0, 0, 0, 0] := by decide

/-- V-H10. -/
theorem test_setEng : after (.setEng true) State.reset tuple = some [1, 0, 0, 0, 0, 0, 0] := by decide

/-- V-H1. -/
theorem test_getData_empty :
    after .getData State.reset (fun t => (tuple t, t.response)) =
      some ([0, 0, 8, 0, 0, 0, 0], some .empty) := by decide

/-- V-C2: after START and 33 empty reads. -/
theorem test_getStatus :
    after .getStatus { hunting with FAILCNT := 33, WARN := 0x04 } (·.response) =
      some (some (.status ⟨0, 0x21, 0x04, 0, 33, 0, 0⟩)) := by decide

/-- V-H8. -/
theorem test_clrWarn :
    after (.clrWarn 0x08) { State.reset with WARN := 0x48 } (·.WARN) = some 0x40 := by decide

/-- R261's example. -/
theorem test_bufClr : after .bufClr (holding ackFw) (·.BUF_LEN) = some 0 := by decide

/-- R262's example. -/
theorem test_bufPush :
    after (.bufPush 0xFD) State.reset (fun t => (t.FB, t.BUF_LEN)) = some ([(0, 0xFD)], 1) := by decide

/-- V-A11. -/
theorem test_bufPush_busy : after (.bufPush 0xFD) hunting tuple = some [0, 1, 0, 2, 0, 0, 0] := by
  decide

/-- V-A1. -/
theorem test_decFw :
    after .decFw (holding ackFw) (fun t => (tuple t, t.response)) =
      some ([0, 0, 0, 0, 0, 0, 22], some (.fw 0x01 0x07 [0x22, 0x09, 0x16, 0x15])) := by decide

/-- V-A3: the firmware fields would reach into the footer. -/
theorem test_decFw_precond :
    after .decFw (holding ackMac) (fun t => (tuple t, t.response)) =
      some ([0, 0, 0, 8, 0, 0, 20], some .noFields) := by decide

/-- V-A2. -/
theorem test_decMac :
    after .decMac (holding ackMac) (·.response) =
      some (some (.mac 0x8F 0x27 0x2E 0xB8 0x0F 0x65)) := by decide

/-- V-H12: a word that encodes no instruction. -/
theorem test_illegal :
    (Result.next? (step { State.reset with commands := [0x101], schedule := [.host] })).map tuple =
      some [0, 0, 0, 1, 0, 0, 0] := by decide

/-- V-P5: the reset input in COLLECT. -/
theorem test_reset_input :
    (Result.next? (step
      { collecting true (frameA.take 10) with
        WARN := 0x15, FAULT := 0xA, SLOT_VALID := true, schedule := [.reset] })).map tuple =
      some [0, 0, 0, 0, 0, 0, 0] := by decide

/-- The word of a table row runs as the first instruction after reset. -/
theorem test_first_instruction :
    (Result.next? (step (State.reset.withFetchWord 12 0x100))).map (·.FSM) = some .hunt ∧
      (Result.next? (step (State.reset.withFetchWord 9 0x0F4))).map (·.WIN.w3) =
        some (.byte 0xF4) := by decide

/-! ### Formatting: V-F2, V-F4, V-F6 -/

theorem test_formatFw :
    formatFw 2 12 [0x01, 0x00, 0x00, 0x0A] =
      ['V', '2', '.', '1', '2', '.', '0', '1', '0', '0', '0', '0', '0', 'a'] := by decide
theorem test_formatMac :
    formatMac 0x8F 0x27 0x2E 0xB8 0x0F 0x65 =
      ['8', 'f', ':', '2', '7', ':', '2', 'e', ':', 'b', '8', ':', '0', 'f', ':', '6', '5'] := by
  decide
theorem test_targetType : targetType 0x04 = .invalid ∧ targetType 0x02 = .static := by decide

/-! ### Safe states the witnesses use -/

theorem safe_reset : SafeState State.reset := by constructor <;> decide
theorem safe_hunting : SafeState hunting := by constructor <;> decide
theorem safe_std : SafeState (collecting false (frameA.take 22)) := by constructor <;> decide
theorem safe_std_part : SafeState (collecting false (frameA.take 21)) := by constructor <;> decide
theorem safe_stopping : SafeState { collecting false (frameA.take 22) with STOP_REQ := true } := by
  constructor <;> decide
theorem safe_signature : SafeState (collecting false (frameE.take 22)) := by constructor <;> decide
theorem safe_eng : SafeState (collecting true (frameE.take 40)) := by constructor <;> decide
theorem safe_ackFw : SafeState (holding ackFw) := by constructor <;> decide
theorem safe_ackMac : SafeState (holding ackMac) := by constructor <;> decide
theorem safe_badAck : SafeState (holding (ackFw.take 21 ++ [0xFF])) := by constructor <;> decide
theorem safe_badMac : SafeState (holding (ackMac.take 19 ++ [0xFF])) := by constructor <;> decide

/-! ### Witnesses: each statement's hypotheses, met together, clause by clause -/

theorem witness_NopChangesNothing : State.reset.P.wf = true := by decide
theorem witness_StartEntersHuntFromIdleOnly :
    (State.reset.P.wf = true ∧ State.reset.FSM = .idle) ∧
      (hunting.P.wf = true ∧ hunting.FSM ≠ .idle) := by decide
theorem witness_StopOnlyRequests :
    (hunting.P.wf = true ∧ hunting.FSM ≠ .idle) ∧
      (State.reset.P.wf = true ∧ State.reset.FSM = .idle) := by decide
theorem witness_SetEngWritesEngMode : (collecting true (frameE.take 40)).P.wf = true := by decide
theorem witness_GetDataReadsTheSlot :
    (∃ s : State, s.P.wf = true ∧ s.SLOT_VALID = true) ∧
      (State.reset.P.wf = true ∧ State.reset.SLOT_VALID = false) :=
  ⟨⟨{ State.reset with SLOT_VALID := true }, by decide⟩, by decide⟩
theorem witness_GetStatusRespondsWithSevenRegisters : hunting.P.wf = true := by decide
theorem witness_ClrWarnClearsMaskedBits : hunting.P.wf = true := by decide
theorem witness_IllegalWordIsRefusedWhole :
    ∃ (s : State) (ws : List CommandWord) (ts : List Turn), s.P.wf = true ∧
      s.schedule = .host :: ts ∧ s.commands = 0x101 :: ws ∧
      decodeCommand 0x101 = .error .strayArg :=
  ⟨{ State.reset with schedule := [.host], commands := [0x101] }, [], [], by decide, rfl, rfl, rfl⟩
theorem witness_BufClrEmptiesInIdle :
    (State.reset.P.wf = true ∧ State.reset.FSM = .idle) ∧
      (hunting.P.wf = true ∧ hunting.FSM ≠ .idle) := by decide
theorem witness_BufPushAppendsOneByte :
    (hunting.P.wf = true ∧ hunting.FSM ≠ .idle) ∧
      (∃ s : State, s.P.wf = true ∧ s.FSM = .idle ∧ s.BUF_LEN = s.P.BUF_CAP) ∧
      (∃ s : State, s.P.wf = true ∧ s.FSM = .idle ∧ s.BUF_LEN + 1 = s.P.BUF_CAP) :=
  ⟨by decide, ⟨{ State.reset with BUF_LEN := 64 }, by decide⟩,
    ⟨{ State.reset with BUF_LEN := 63 }, by decide⟩⟩
/-- The fields end exactly at the footer; with the right footer, and with a wrong one. -/
theorem witness_DecFwDeliversFirmwareFields (s : State)
    (hs : s = holding ackFw ∨ s = holding (ackFw.take 21 ++ [0xFF])) :
    SafeState s ∧ s.FSM = .idle ∧ 8 ≤ s.BUF_LEN ∧ s.memRead 0 4 = some s.P.HDR_ACK.toList ∧
      max (s.P.OFF_FW_MAJ + 2) (s.P.OFF_FW_MIN + s.P.FW_MIN_LEN) = s.BUF_LEN - 4 ∧
      (s.memRead (s.BUF_LEN - 4) 4 = some s.P.TRL_ACK.toList ↔ s = holding ackFw) := by
  rcases hs with rfl | rfl
  · exact ⟨safe_ackFw, by decide⟩
  · exact ⟨safe_badAck, by decide⟩
theorem witness_DecMacDeliversAddressInWireOrder (s : State)
    (hs : s = holding ackMac ∨ s = holding (ackMac.take 19 ++ [0xFF])) :
    SafeState s ∧ s.FSM = .idle ∧ 8 ≤ s.BUF_LEN ∧ s.memRead 0 4 = some s.P.HDR_ACK.toList ∧
      s.P.OFF_MAC + 6 = s.BUF_LEN - 4 ∧
      (s.memRead (s.BUF_LEN - 4) 4 = some s.P.TRL_ACK.toList ↔ s = holding ackMac) := by
  rcases hs with rfl | rfl
  · exact ⟨safe_ackMac, by decide⟩
  · exact ⟨safe_badMac, by decide⟩
theorem witness_DecodePreconditionRefuses :
    (SafeState hunting ∧ hunting.FSM ≠ .idle) ∧
      (SafeState State.reset ∧ State.reset.FSM = .idle ∧ ¬ 8 ≤ State.reset.BUF_LEN) ∧
      (SafeState (holding frameA) ∧ (holding frameA).FSM = .idle ∧
        (holding frameA).memRead 0 4 ≠ some (holding frameA).P.HDR_ACK.toList) ∧
      (SafeState (holding ackMac) ∧ (holding ackMac).FSM = .idle ∧
        ¬ max ((holding ackMac).P.OFF_FW_MAJ + 2)
            ((holding ackMac).P.OFF_FW_MIN + (holding ackMac).P.FW_MIN_LEN) ≤
          (holding ackMac).BUF_LEN - 4) :=
  ⟨⟨safe_hunting, by decide⟩, ⟨safe_reset, by decide⟩, ⟨by constructor <;> decide, by decide⟩,
    safe_ackMac, by decide⟩
theorem witness_BufferCommandsAreBusyWhileRunning :
    hunting.P.wf = true ∧ hunting.FSM ≠ .idle := by decide
theorem witness_HuntByteShiftsAndMatches :
    nearHeader.P.wf = true ∧ nearHeader.FSM = .hunt ∧
      (⟨nearHeader.WIN.w1, nearHeader.WIN.w2, nearHeader.WIN.w3, ⟨true, 0xF1⟩⟩ : Window) =
        ⟨⟨true, 0xF4⟩, ⟨true, 0xF3⟩, ⟨true, 0xF2⟩, ⟨true, 0xF1⟩⟩ ∧
      (⟨nearHeader.WIN.w1, nearHeader.WIN.w2, nearHeader.WIN.w3, ⟨true, 0xF2⟩⟩ : Window) ≠
        ⟨⟨true, 0xF4⟩, ⟨true, 0xF3⟩, ⟨true, 0xF2⟩, ⟨true, 0xF1⟩⟩ := by decide
theorem witness_HuntEmptyShiftsAHole : hunting.P.wf = true ∧ hunting.FSM = .hunt := by decide
theorem witness_CollectByteIsStored :
    (collecting false (frameA.take 21)).P.wf = true ∧
      (collecting false (frameA.take 21)).FSM = .collect ∧
      (collecting false (frameA.take 21)).BUF_LEN + 2 =
        (collecting false (frameA.take 21)).P.frameLen false := by decide
theorem witness_CollectEmptyAbortsTheFrame :
    (collecting false (frameA.take 22)).P.wf = true ∧
      (collecting false (frameA.take 22)).FSM = .collect := by decide
theorem witness_SignatureDropsAStandardFrame :
    SafeState (collecting false (frameE.take 22)) ∧ completes (collecting false (frameE.take 22)) ∧
      frameWith (collecting false (frameE.take 22)) 0x28 = some (frameE.take 23) ∧
      (collecting false (frameE.take 22)).ENG_LATCH = false ∧
      ∀ j < Params.pTest.ENG_SIG.length,
        (frameE.take 23)[Params.pTest.ENG_SIG_OFF + j]? = Params.pTest.ENG_SIG[j]? :=
  ⟨safe_signature, by decide, by decide, rfl, by decide⟩
/-- A standard frame without the signature. -/
theorem witness_publication_standard :
    SafeState (collecting false (frameA.take 22)) ∧ completes (collecting false (frameA.take 22)) ∧
      frameWith (collecting false (frameA.take 22)) 0xF5 = some frameA ∧
      ∃ j < Params.pTest.ENG_SIG.length,
        frameA[Params.pTest.ENG_SIG_OFF + j]? ≠ Params.pTest.ENG_SIG[j]? :=
  ⟨safe_std, by decide, by decide, 0, by decide⟩
/-- An engineering frame. -/
theorem witness_publication_engineering :
    SafeState (collecting true (frameE.take 40)) ∧ completes (collecting true (frameE.take 40)) ∧
      frameWith (collecting true (frameE.take 40)) 0xF5 = some frameE ∧
      (collecting true (frameE.take 40)).ENG_LATCH = true :=
  ⟨safe_eng, by decide, by decide, rfl⟩
theorem witness_PublishedFieldsAreTheFrames :
    SafeState (collecting false (frameA.take 22)) ∧ SafeState (collecting true (frameE.take 40)) :=
  ⟨witness_publication_standard.1, witness_publication_engineering.1⟩
theorem witness_PublishedGatesFollowTheLatch :
    (collecting true (frameE.take 40)).ENG_LATCH = true ∧
      (collecting false (frameA.take 22)).ENG_LATCH = false := ⟨rfl, rfl⟩
/-- The right trailer, and `FA` with a wrong last byte. -/
theorem witness_TrailerCheckIsAdvisory :
    frameA.drop (frameA.length - 4) = Params.pTest.TRL_TLM.toList ∧
      frameWith (collecting false (frameA.take 22)) 0xF4 = some (frameA.take 22 ++ [0xF4]) ∧
      (frameA.take 22 ++ [0xF4]).drop 19 ≠ Params.pTest.TRL_TLM.toList := by decide
/-- With a stop pending, and (`witness_publication_standard`) without. -/
theorem witness_PublicationHonoursAPendingStop :
    SafeState { collecting false (frameA.take 22) with STOP_REQ := true } ∧
      completes { collecting false (frameA.take 22) with STOP_REQ := true } ∧
      frameWith { collecting false (frameA.take 22) with STOP_REQ := true } 0xF5 = some frameA :=
  ⟨safe_stopping, by decide, by decide⟩
theorem witness_CompletedFrameIsWritten :
    SafeState (collecting true (frameE.take 40)) ∧ completes (collecting true (frameE.take 40)) :=
  ⟨safe_eng, by decide⟩
theorem witness_EventWaitsWhileIdle :
    ∃ (s : State) (ts : List Turn), s.P.wf = true ∧ s.schedule = .event :: ts ∧ s.FSM = .idle :=
  ⟨{ State.reset with schedule := [.event], stream := [0x0F4] }, [], by decide, rfl, rfl⟩
theorem witness_StepRunsTheDecodedInstruction :
    (∃ (s : State) (ts : List Turn) (w : EventWord) (ws : List EventWord),
      s.schedule = .event :: ts ∧ s.stream = w :: ws ∧ s.FSM ≠ .idle) ∧
    (∃ (s : State) (ts : List Turn) (w : CommandWord) (ws : List CommandWord) (i : Instr),
      s.schedule = .host :: ts ∧ s.commands = w :: ws ∧ decodeCommand w = .ok i) :=
  ⟨⟨{ hunting with schedule := [.event], stream := [0x0F4] }, [], 0x0F4, [], rfl, rfl, by decide⟩,
    ⟨{ State.reset with schedule := [.host], commands := [0x8FD] }, [], 0x8FD, [], .bufPush 0xFD,
      rfl, rfl, rfl⟩⟩
theorem witness_DecoderFollowsTheOpcodeMap :
    (⟨.SET_ENG, 0x300, 0xFFE⟩ : CommandRow) ∈ commandRows ∧
      (0x301 : CommandWord) &&& 0xFFE = 0x300 ∧ decodeCommand 0x301 = .ok (.setEng true) :=
  ⟨by decide, by decide, rfl⟩
theorem witness_DecodeAndEncodeAgree :
    decodeCommand 0x6FF = .ok (.clrWarn 0xFF) ∧
      ((0x100 : EventWord)[8] = true → (0x100 : EventWord) = 0x100) ∧
      ((0x0FF : EventWord)[8] = true → (0x0FF : EventWord) = 0x100) := ⟨rfl, by decide, by decide⟩
theorem witness_ResetValuesAreAsSpecified :
    State.reset = State.reset ∧ ∃ P : Params, State.resetWith P = State.resetWith P :=
  ⟨rfl, Params.pTest, rfl⟩
theorem witness_ResetInputRestoresResetValues :
    ∃ (s : State) (ts : List Turn), s.P.wf = true ∧ s.schedule = .reset :: ts :=
  ⟨{ hunting with schedule := [.reset] }, [], by decide, rfl⟩
theorem witness_ResetIsSafe : Params.pTest.wf = true := by decide
theorem witness_StepKeepsSafeStates :
    ∃ s t : State, SafeState s ∧ step s = .next t ∧ t.FSM = .hunt :=
  ⟨{ State.reset with schedule := [.host], commands := [0x100] }, _,
    by constructor <;> decide, rfl, rfl⟩
theorem witness_SafeStatesNeverStop :
    SafeState (collecting true (frameE.take 40)) ∧ SafeState hunting ∧ SafeState (holding ackFw) :=
  ⟨safe_eng, safe_hunting, safe_ackFw⟩
theorem witness_IllFormedRecordsAreRefused :
    (State.resetWith { Params.pTest with CNT_W := 5 }).P.wf = false := by decide
theorem witness_HuntStepIsTheReferenceFunction :
    (Instr.evByte 0xF1).isEvent = true ∧ nearHeader.P.wf = true ∧ nearHeader.FSM = .hunt := by
  decide
theorem witness_CollectStepIsTheReferenceFunction :
    Instr.evEmpty.isEvent = true ∧ SafeState (collecting false (frameA.take 22)) ∧
      (collecting false (frameA.take 22)).FSM = .collect := ⟨rfl, safe_std, rfl⟩
theorem witness_HuntMatchesAtTheFirstOccurrence (es : List Instr)
    (h : es = [.evByte 0xF4, .evByte 0xF3, .evByte 0xF2, .evByte 0xF1] ∨ es = [.evEmpty]) :
    hunting.P.wf = true ∧ hunting.FSM = .hunt ∧ hunting.WIN = Window.holes ∧
      (∀ e ∈ es, e.isEvent = true) ∧
      ∀ pre, pre <+: es → pre ≠ es → ¬ endsWithHeader hunting.P pre := by
  refine ⟨by decide, rfl, rfl, by rcases h with rfl | rfl <;> decide, fun pre hp hne => ?_⟩
  rintro ⟨q, rfl⟩
  have hlen := hp.length_le
  have hl : es.length ≤ 4 := by rcases h with rfl | rfl <;> decide
  simp only [List.length_append, List.length_map, Marker.length_toList] at hlen
  exact hne (hp.eq_of_length_le (by simp; omega))
theorem witness_BaudWarningFromThe33rdEmptyRead :
    hunting.P.wf = true ∧ hunting.FSM = .hunt ∧ hunting.FAILCNT = 0 := by decide
theorem witness_UnreadableContentsNeverMatter :
    ∃ s t s' : State, SameReadable s t ∧ s ≠ t ∧ step s = .next s' :=
  ⟨hunting, { hunting with FB := [(3, 7)], SLOT := { Slot.reset with TT := 5 } }, _,
    by constructor <;> decide, by decide, rfl⟩
theorem witness_HostCannotReadWindowOrLatch :
    Instr.getStatus.isHost = true ∧ ∃ t, exec .getStatus hunting = .next t := ⟨rfl, _, rfl⟩
theorem witness_FrameInFlightKeepsItsMode :
    (Instr.evByte 0xF6).isEvent = true ∧ (collecting false (frameA.take 21)).FSM = .collect ∧
      ∃ t, exec (.evByte 0xF6) (collecting false (frameA.take 21)) = .next t := ⟨rfl, rfl, _, rfl⟩
theorem witness_ArraysPresentExactlyInEngineeringMode :
    ∃ s t : State, exec (.evByte 0xF5) s = .next t ∧ Signal.publish ∈ t.signals ∧
      (s.FSM = .collect → s.ENG_LATCH = s.ENG_MODE) ∧ ∀ v, Instr.evByte 0xF5 ≠ .setEng v :=
  ⟨{ collecting true (frameE.take 40) with ENG_MODE := true }, _, rfl, by decide, fun _ => rfl,
    fun _ => nofun⟩
theorem witness_FaultBitsOnlyResetClears :
    ∃ s t : State, step s = .next t ∧ s.schedule.head? ≠ some .reset ∧ s.FAULT[0] = true :=
  ⟨{ State.reset with FAULT := 1, schedule := [.host], commands := [0x6FF] }, _, rfl, by decide,
    by decide⟩
theorem witness_WarningBitsOnlyClrWarnClears :
    ∃ s t : State, exec (.clrWarn 0x01) s = .next t ∧ s.WARN[0] = true :=
  ⟨{ State.reset with WARN := 1 }, _, rfl, by decide⟩
theorem witness_PositionMovesOnlyAsListed :
    (SafeState State.reset ∧ ∃ t, exec .start State.reset = .next t) ∧
      (SafeState hunting ∧ ∃ t, exec (.evByte 0xF4) hunting = .next t) ∧
      (SafeState (collecting false (frameA.take 21)) ∧
        ∃ t, exec (.evByte 0xF6) (collecting false (frameA.take 21)) = .next t) :=
  ⟨⟨safe_reset, _, rfl⟩, ⟨safe_hunting, _, rfl⟩, safe_std_part, _, rfl⟩
theorem witness_IdleIsLeftByStartAndEnteredByPublication :
    (∃ t, exec .start State.reset = .next t ∧ State.reset.FSM = .idle ∧ t.FSM ≠ .idle) ∧
      ∃ s t : State, exec (.evByte 0xF5) s = .next t ∧ s.FSM ≠ .idle ∧ t.FSM = .idle :=
  ⟨⟨_, rfl, rfl, by decide⟩,
    { collecting false (frameA.take 22) with STOP_REQ := true }, _, rfl, by decide, rfl⟩
theorem witness_CollectedFrameOutcomes :
    (Instr.evByte 0xF5).isEvent = true ∧ SafeState (collecting false (frameA.take 22)) ∧
      (collecting false (frameA.take 22)).FSM = .collect ∧
      ∃ t, exec (.evByte 0xF5) (collecting false (frameA.take 22)) = .next t :=
  ⟨rfl, safe_std, rfl, _, rfl⟩
theorem witness_SlotIsWrittenByPublicationOnly :
    (∃ t, exec (.evByte 0xF5) (collecting false (frameA.take 22)) = .next t ∧
      Signal.publish ∈ t.signals) ∧
      (∃ t, exec .nop State.reset = .next t ∧ Signal.publish ∉ t.signals) ∧
      ∃ s t : State, exec .getData s = .next t ∧ s.SLOT_VALID = true :=
  ⟨⟨_, rfl, by decide⟩, ⟨_, rfl, by decide⟩, { State.reset with SLOT_VALID := true }, _, rfl, rfl⟩
theorem witness_GetDataDeliversTheLatestFrame :
    SafeState (collecting false (frameA.take 22)) ∧ completes (collecting false (frameA.take 22)) ∧
      frameWith (collecting false (frameA.take 22)) 0xF5 = some frameA ∧
      ∃ t u, exec (.evByte 0xF5) (collecting false (frameA.take 22)) = .next t ∧
        Signal.publish ∈ t.signals ∧ exec .getData t = .next u :=
  ⟨safe_std, by decide, by decide, _, _, rfl, by decide, rfl⟩
theorem witness_FailcntFollowsTheEvents :
    (∃ t, exec .start State.reset = .next t) ∧ (∃ t, exec (.evByte 0) hunting = .next t) ∧
      ∃ t, exec .evEmpty hunting = .next t := ⟨⟨_, rfl⟩, ⟨_, rfl⟩, _, rfl⟩
theorem witness_CsumCntCountsMismatches :
    ∃ t, exec .decFw (holding (ackFw.take 21 ++ [0xFF])) = .next t ∧
      Signal.warning .csumMismatch ∈ t.signals := ⟨_, rfl, by decide⟩
theorem witness_ResponseShapeFollowsTheCommand :
    ∃ t, exec .decFw (holding ackFw) = .next t ∧ t.response ≠ some .noFields :=
  ⟨_, rfl, by decide⟩
theorem witness_SignalsComeInTheFixedOrder :
    (∃ t, exec (.evByte 0xF5) (collecting false (frameA.take 22)) = .next t) ∧
      (∃ t, exec .evEmpty (collecting false (frameA.take 22)) = .next t) ∧
      Instr.start.isHost = true ∧ ∃ t, exec .start State.reset = .next t :=
  ⟨⟨_, rfl⟩, ⟨_, rfl⟩, rfl, _, rfl⟩
theorem witness_StoresOnlyAtTheFillIndex :
    ∃ t, exec (.evByte 0xF1) nearHeader = .next t ∧ 4 ∉ storedAddresses (.evByte 0xF1) nearHeader ∧
      3 ∈ storedAddresses (.evByte 0xF1) nearHeader := ⟨_, rfl, by decide, by decide⟩
theorem witness_StepTakesAtMostTheHeads : ∃ t, step State.reset = .next t := ⟨_, rfl⟩
theorem witness_PushLoadsTheBuffer :
    State.reset.P.wf = true ∧ State.reset.FSM = .idle ∧
      (List.replicate 64 (0 : Byte)).length ≤ State.reset.P.BUF_CAP := by decide
theorem witness_LoadedTraceRunsAsTheTrace :
    ∃ t, Trace.run [.host 0x100, Trace.byte 0xF4] State.reset = .next t := ⟨_, rfl⟩
theorem witness_TargetTypeMapping : 4 ≤ (0x04 : Byte).toNat := by decide

end Sys2Proof.Tests
end

section
/-! PROOFS. The scope's two statements (spec/00_scope.md): a step runs the decoded instruction of the side
whose turn it is (R12, R86), and a machine with an ill-formed record is given no meaning (R8). -/

namespace Sys2Proof.Machine

/-! ### A step, by whose turn it is -/

theorem step_of_event_turn {s : State} {ts : List Turn} (h : s.schedule = .event :: ts) :
    step s = eventTurn { s with schedule := ts } := by simp [step, h]

theorem step_of_host_turn {s : State} {ts : List Turn} (h : s.schedule = .host :: ts) :
    step s = hostTurn { s with schedule := ts } := by simp [step, h]

/-- Where events are enabled the stream's turn takes the head and runs it (R12, R149). -/
theorem eventTurn_of_stream_cons {s : State} {w : EventWord} {ws : List EventWord}
    (hw : s.stream = w :: ws) (hf : s.FSM ≠ .idle) :
    eventTurn s = exec (decodeEvent w) { s with stream := ws } := by
  simp [eventTurn, hw, State.eventsEnabled, hf, runEventWord]

/-- The host's turn takes the next word in every state and runs what it decodes to (R228). -/
theorem hostTurn_of_commands_cons {s : State} {w : CommandWord} {ws : List CommandWord} {i : Instr}
    (hw : s.commands = w :: ws) (hi : decodeCommand w = .ok i) :
    hostTurn s = exec i { s with commands := ws } := by
  simp [hostTurn, hw, runCommandWord, hi]

/-- Settles O26: the turn picks the side, and that side's turn runs its head word decoded. -/
theorem stepRunsTheDecodedInstruction : Obligations.StepRunsTheDecodedInstruction := by
  unfold Obligations.StepRunsTheDecodedInstruction
  constructor
  · intro s ts w ws hturn hw hf
    rw [step_of_event_turn hturn]
    exact eventTurn_of_stream_cons hw hf
  · intro s ts w ws i hturn hw hi
    rw [step_of_host_turn hturn]
    exact hostTurn_of_commands_cons hw hi

/-! ### Ill-formed records

Every meaning is built on one of the four frames `eventStep`, `hostStep`, `resetStep` and `waitStep`, and
each frame looks at the record before anything else. -/

theorem eventStep_of_not_wf {s : State} {k : State → Result} (h : s.P.wf = false) :
    eventStep s k = .refused .paramsNotWellFormed := whenWellFormed_of_not_wf h

theorem hostStep_of_not_wf {s : State} {k : State → Result} (h : s.P.wf = false) :
    hostStep s k = .refused .paramsNotWellFormed := whenWellFormed_of_not_wf h

theorem resetStep_of_not_wf {s : State} (h : s.P.wf = false) :
    resetStep s = .refused .paramsNotWellFormed := whenWellFormed_of_not_wf h

theorem waitStep_of_not_wf {s : State} (h : s.P.wf = false) :
    waitStep s = .refused .paramsNotWellFormed := whenWellFormed_of_not_wf h

theorem exec_of_not_wf (i : Instr) {s : State} (h : s.P.wf = false) :
    exec i s = .refused .paramsNotWellFormed := by
  cases i with
  | evByte | evEmpty =>
    simp only [exec]
    exact eventStep_of_not_wf h
  | nop | start | stop | setEng | getData | getStatus | clrWarn | bufClr | bufPush | decFw | decMac =>
    simp only [exec]
    exact hostStep_of_not_wf h

theorem execIllegal_of_not_wf {s : State} (h : s.P.wf = false) :
    execIllegal s = .refused .paramsNotWellFormed := hostStep_of_not_wf h

theorem eventTurn_of_not_wf {s : State} (h : s.P.wf = false) :
    eventTurn s = .refused .paramsNotWellFormed := by
  obtain ⟨-, hwait⟩ | ⟨-, w, ws, -, hrun⟩ := eventTurn_cases s
  · rw [hwait, waitStep_of_not_wf h]
  · rw [hrun]
    exact exec_of_not_wf _ h

theorem hostTurn_of_not_wf {s : State} (h : s.P.wf = false) :
    hostTurn s = .refused .paramsNotWellFormed := by
  obtain ⟨-, hwait⟩ | ⟨w, ws, -, ⟨i, -, hrun⟩ | ⟨r, -, hrun⟩⟩ := hostTurn_cases s
  · rw [hwait, waitStep_of_not_wf h]
  · rw [hrun]
    exact exec_of_not_wf i h
  · rw [hrun]
    exact execIllegal_of_not_wf h

theorem step_of_not_wf {s : State} (h : s.P.wf = false) :
    step s = .refused .paramsNotWellFormed := by
  obtain ⟨-, hstep⟩ | ⟨ts, -, hstep⟩ | ⟨ts, -, hstep⟩ | ⟨ts, -, hstep⟩ := step_cases s <;> rw [hstep]
  · exact waitStep_of_not_wf h
  · exact eventTurn_of_not_wf h
  · exact hostTurn_of_not_wf h
  · exact resetStep_of_not_wf h

/-- Settles O36: whoever's turn it is, the frame of the meaning that runs refuses the record. -/
theorem illFormedRecordsAreRefused : Obligations.IllFormedRecordsAreRefused := by
  unfold Obligations.IllFormedRecordsAreRefused
  exact fun s h => ⟨step_of_not_wf h, fun i => exec_of_not_wf i h⟩

end Sys2Proof.Machine
end

section
/-! PROOFS. exec as a relation: the answers an instruction can give in a state whose record is well-formed, one
constructor per outcome the rules name. `exec_next_iff` says that they are exactly exec's, so a property of every
instruction is a case split over the outcomes, and two states are compared by giving the same outcome in both. -/

namespace Sys2Proof.Machine

/-! ### The states the outcomes are written with -/

/-- A COLLECT byte taken and stored at the fill index, not yet counted (R171). -/
def byteStored (b : Byte) (s : State) : State :=
  { countByte (withOutputs none s) with FB := s.FB.write s.BUF_LEN b }

section byteStored
variable (b : Byte) (s : State)
@[simp] theorem byteStored_P : (byteStored b s).P = s.P := rfl
@[simp] theorem byteStored_FSM : (byteStored b s).FSM = s.FSM := rfl
@[simp] theorem byteStored_STOP_REQ : (byteStored b s).STOP_REQ = s.STOP_REQ := rfl
@[simp] theorem byteStored_ENG_MODE : (byteStored b s).ENG_MODE = s.ENG_MODE := rfl
@[simp] theorem byteStored_ENG_LATCH : (byteStored b s).ENG_LATCH = s.ENG_LATCH := rfl
@[simp] theorem byteStored_BUF_LEN : (byteStored b s).BUF_LEN = s.BUF_LEN := rfl
@[simp] theorem byteStored_FB : (byteStored b s).FB = s.FB.write s.BUF_LEN b := rfl
@[simp] theorem byteStored_CSUM_CNT : (byteStored b s).CSUM_CNT = s.CSUM_CNT := rfl
@[simp] theorem byteStored_WARN : (byteStored b s).WARN = s.WARN := rfl
@[simp] theorem byteStored_SLOT_VALID : (byteStored b s).SLOT_VALID = s.SLOT_VALID := rfl
@[simp] theorem byteStored_SLOT : (byteStored b s).SLOT = s.SLOT := rfl
@[simp] theorem byteStored_signals : (byteStored b s).signals = [] := rfl
@[simp] theorem byteStored_frameLen : (byteStored b s).frameLen = s.frameLen := rfl
end byteStored

section membership
variable (x : Signal) (s : State)

theorem mem_signals_countEmpty :
    x ∈ (countEmpty s).signals ↔
      x ∈ s.signals ∨ x = .warning .baudSuspect ∧ 32 < satInc s.P.CNT_W s.FAILCNT := by
  by_cases hc : 32 < satInc s.P.CNT_W s.FAILCNT <;> simp [hc]

theorem mem_signals_checkTrailer (F : List Byte) (L : Nat) (T : Marker) :
    x ∈ (checkTrailer F L T s).signals ↔
      x ∈ s.signals ∨ x = .warning .csumMismatch ∧ trailerOk F L T = false := by
  cases h : trailerOk F L T <;> simp [h]

theorem mem_signals_checkTargetType (c : Byte) :
    x ∈ (checkTargetType c s).signals ↔
      x ∈ s.signals ∨ x = .warning .ttInvalid ∧ reservedTargetType c = true := by
  cases h : reservedTargetType c <;> simp [h]

theorem mem_signals_afterPublish :
    x ∈ (afterPublish s).signals ↔ x ∈ s.signals ∨ x = .stopped ∧ s.STOP_REQ = true := by
  cases h : s.STOP_REQ <;> simp [h]

/-- An empty read in COLLECT warns of the abort, and of the baud rate at most (R173). -/
theorem mem_signals_abort : x ∈ (enterHunt (raiseWarning .frameAbort (countEmpty s))).signals ↔
    x ∈ s.signals ∨ x = .warning .baudSuspect ∧ 32 < satInc s.P.CNT_W s.FAILCNT ∨
      x = .warning .frameAbort := by
  rw [enterHunt_signals, raiseWarning_signals, List.mem_append, List.mem_singleton, mem_signals_countEmpty,
    or_assoc]

end membership

section deliverFrame
variable (F : List Byte) (s : State)
@[simp] theorem deliverFrame_FSM : (deliverFrame F s).FSM = if s.STOP_REQ then .idle else .hunt := by
  simp [deliverFrame]

/-- A delivered frame is no longer in flight (R186). -/
theorem deliverFrame_FSM_ne_collect : (deliverFrame F s).FSM ≠ .collect := by
  rw [deliverFrame_FSM]
  split <;> decide

@[simp] theorem deliverFrame_ENG_MODE : (deliverFrame F s).ENG_MODE = s.ENG_MODE := by simp [deliverFrame]
@[simp] theorem deliverFrame_BUF_LEN : (deliverFrame F s).BUF_LEN = 0 := by simp [deliverFrame]
@[simp] theorem deliverFrame_CSUM_CNT : (deliverFrame F s).CSUM_CNT =
    if trailerOk F s.frameLen s.P.TRL_TLM then s.CSUM_CNT else satInc s.P.CNT_W s.CSUM_CNT := by
  simp [deliverFrame]
@[simp] theorem deliverFrame_SLOT_VALID : (deliverFrame F s).SLOT_VALID = true := by simp [deliverFrame]
@[simp] theorem deliverFrame_GATES_VALID : (deliverFrame F s).SLOT.GATES_VALID = s.ENG_LATCH := by
  simp [deliverFrame, Slot.publish, extract_gates_isSome]

/-- A delivered frame's signals (R180). -/
theorem mem_signals_deliverFrame (x : Signal) : x ∈ (deliverFrame F s).signals ↔
    x ∈ s.signals ∨ x = .warning .csumMismatch ∧ trailerOk F s.frameLen s.P.TRL_TLM = false ∨
      x = .warning .ttInvalid ∧ reservedTargetType (byteAt F s.P.OFF_TT) = true ∨ x = .publish ∨
      x = .stopped ∧ s.STOP_REQ = true := by
  simp only [deliverFrame, mem_signals_afterPublish, publish_signals, List.mem_append, List.mem_singleton,
    mem_signals_checkTargetType, mem_signals_checkTrailer, publish_STOP_REQ, checkTargetType_STOP_REQ,
    checkTrailer_STOP_REQ, or_assoc]
  rfl

end deliverFrame

/-- The two decode commands, with the bytes each needs and the answer it computes (R265, R267). -/
inductive Decodes (P : Params) : Instr → Nat → (List Byte → Response) → Prop where
  | fw : Decodes P .decFw P.needFw (firmwareFields P)
  | mac : Decodes P .decMac P.needMac (addressField P)

theorem exec_of_decodes {i : Instr} {s : State} {need : Nat} {answer : List Byte → Response}
    (hd : Decodes s.P i need answer) : exec i s = hostStep s (decodeAck need answer) := by
  cases hd <;> rfl

theorem Decodes.isHost {P : Params} {i : Instr} {need : Nat} {answer : List Byte → Response}
    (hd : Decodes P i need answer) : i.isHost = true := by
  cases hd <;> rfl

/-- The bytes a decode command reads fail its precondition (R264). -/
def decUnmet (need : Nat) (s : State) : Prop :=
  decFits need s = false ∨
    ∃ F, s.memRead 0 s.BUF_LEN = some F ∧ startsWith F s.P.HDR_ACK = false

/-! ### The outcomes -/

/-- What an instruction answers in state `s`: the instruction and the next state. -/
inductive Answers (s : State) : Instr → State → Prop where
  | notEnabled {e : Instr} (he : e.isEvent = true) (hf : s.FSM = .idle) :
      Answers s e (withOutputs none s)
  | shiftByte {b : Byte} (hf : s.FSM = .hunt) (hm : headerMatch s.P (s.WIN.shift (.byte b)) = false) :
      Answers s (.evByte b) { countByte (withOutputs none s) with WIN := s.WIN.shift (.byte b) }
  | matchByte {b : Byte} (hf : s.FSM = .hunt) (hm : headerMatch s.P (s.WIN.shift (.byte b)) = true)
      (hc : 4 ≤ s.P.BUF_CAP) :
      Answers s (.evByte b) (emit .sync
        { countByte (withOutputs none s) with
          WIN := s.WIN.shift (.byte b)
          FB := s.FB.writeList 0 s.P.HDR_TLM.toList
          ENG_LATCH := s.ENG_MODE
          BUF_LEN := 4
          FSM := .collect })
  | shiftHole (hf : s.FSM = .hunt) :
      Answers s .evEmpty { countEmpty (withOutputs none s) with WIN := s.WIN.shift .hole }
  | storeByte {b : Byte} (hf : s.FSM = .collect) (hc : s.BUF_LEN < s.P.BUF_CAP)
      (hl : s.BUF_LEN + 1 < s.frameLen) :
      Answers s (.evByte b) { byteStored b s with BUF_LEN := s.BUF_LEN + 1 }
  | dropByte {b : Byte} {F : List Byte} (hf : s.FSM = .collect) (hc : s.BUF_LEN < s.P.BUF_CAP)
      (hl : s.frameLen ≤ s.BUF_LEN + 1)
      (hF : (s.FB.write s.BUF_LEN b).readList 0 s.frameLen = some F)
      (hd : s.ENG_LATCH = false ∧ engSig s.P F = true) :
      Answers s (.evByte b) (dropFrame (byteStored b s))
  | deliverByte {b : Byte} {F : List Byte} (hf : s.FSM = .collect) (hc : s.BUF_LEN < s.P.BUF_CAP)
      (hl : s.frameLen ≤ s.BUF_LEN + 1)
      (hF : (s.FB.write s.BUF_LEN b).readList 0 s.frameLen = some F)
      (hd : s.ENG_LATCH = true ∨ engSig s.P F = false) :
      Answers s (.evByte b) (deliverFrame F (byteStored b s))
  | abort (hf : s.FSM = .collect) :
      Answers s .evEmpty (enterHunt (raiseWarning .frameAbort (countEmpty (withOutputs none s))))
  | nop : Answers s .nop (withOutputs (some .unit) s)
  | start (hf : s.FSM = .idle) :
      Answers s .start (emit .started (enterHunt { withOutputs (some .unit) s with STOP_REQ := false }))
  | startIgnored (hf : s.FSM ≠ .idle) :
      Answers s .start (raiseWarning .opIgnored (withOutputs (some .unit) s))
  | stopRequested (hf : s.FSM ≠ .idle) :
      Answers s .stop { withOutputs (some .unit) s with STOP_REQ := true }
  | stopIgnored (hf : s.FSM = .idle) :
      Answers s .stop (raiseWarning .opIgnored (withOutputs (some .unit) s))
  | setEng {v : Bool} : Answers s (.setEng v) { withOutputs (some .unit) s with ENG_MODE := v }
  | getReading (hv : s.SLOT_VALID = true) :
      Answers s .getData (respond (.reading s.SLOT.reading) (withOutputs (some .unit) s))
  | getEmpty (hv : s.SLOT_VALID = false) :
      Answers s .getData (respond .empty (raiseWarning .emptyRead (withOutputs (some .unit) s)))
  | getStatus : Answers s .getStatus (respond (.status s.statusRegs) (withOutputs (some .unit) s))
  | clrWarn {m : Byte} : Answers s (.clrWarn m) (clearWarnings m (withOutputs (some .unit) s))
  | bufClr (hf : s.FSM = .idle) : Answers s .bufClr { withOutputs (some .unit) s with BUF_LEN := 0 }
  | bufClrBusy (hf : s.FSM ≠ .idle) :
      Answers s .bufClr (raiseFault .busy (withOutputs (some .unit) s))
  | bufPush {b : Byte} (hf : s.FSM = .idle) (hc : s.BUF_LEN < s.P.BUF_CAP) :
      Answers s (.bufPush b)
        { withOutputs (some .unit) s with FB := s.FB.write s.BUF_LEN b, BUF_LEN := s.BUF_LEN + 1 }
  | bufFull {b : Byte} (hf : s.FSM = .idle) (hc : s.BUF_LEN = s.P.BUF_CAP) :
      Answers s (.bufPush b) (raiseFault .bufOvf (withOutputs (some .unit) s))
  | bufPushBusy {b : Byte} (hf : s.FSM ≠ .idle) :
      Answers s (.bufPush b) (raiseFault .busy (withOutputs (some .unit) s))
  | decBusy {i : Instr} {need : Nat} {answer : List Byte → Response}
      (hd : Decodes s.P i need answer) (hf : s.FSM ≠ .idle) :
      Answers s i (raiseFault .busy (respond .noFields (withOutputs (some .unit) s)))
  | decRefused {i : Instr} {need : Nat} {answer : List Byte → Response}
      (hd : Decodes s.P i need answer) (hf : s.FSM = .idle) (hu : decUnmet need s) :
      Answers s i (raiseFault .decPrecond (respond .noFields (withOutputs (some .unit) s)))
  | decAnswered {i : Instr} {need : Nat} {answer : List Byte → Response} {F : List Byte}
      (hd : Decodes s.P i need answer) (hf : s.FSM = .idle) (hn : decFits need s = true)
      (hF : s.memRead 0 s.BUF_LEN = some F) (hs : startsWith F s.P.HDR_ACK = true) :
      Answers s i (respond (answer F)
        (checkTrailer F s.BUF_LEN s.P.TRL_ACK (respond .noFields (withOutputs (some .unit) s))))

/-! ### The outcomes are exec's -/

theorem collectByte_answers {s t : State} {b : Byte} (hf : s.FSM = .collect)
    (h : collectByte b (withOutputs none s) = .next t) : Answers s (.evByte b) t := by
  obtain ⟨hc, h⟩ := collectByte_next h
  obtain ⟨hl, rfl⟩ | ⟨hl, F, hF, rfl⟩ := afterStore_next h
  · exact .storeByte hf hc hl
  · obtain ⟨hm, hg, heq⟩ | ⟨hd, heq⟩ := completeFrame_cases F (byteStored b s)
    · exact heq ▸ .dropByte hf hc hl hF ⟨hm, hg⟩
    · exact heq ▸ .deliverByte hf hc hl hF hd

theorem evByte_answers {s t : State} {b : Byte} (h : exec (.evByte b) s = .next t) :
    Answers s (.evByte b) t := by
  obtain ⟨-, ⟨hf, rfl⟩ | ⟨hf, h⟩ | ⟨hf, h⟩⟩ := evByte_next h
  · exact .notEnabled rfl hf
  · obtain ⟨hm, rfl⟩ | ⟨hm, h⟩ := huntByte_next h
    · exact .shiftByte hf hm
    · obtain ⟨hc, rfl⟩ := matchHeader_next h
      exact .matchByte hf hm hc
  · exact collectByte_answers hf h

theorem decode_answers {s t : State} {i : Instr} {need : Nat} {answer : List Byte → Response}
    (hd : Decodes s.P i need answer)
    (h : decodeAck need answer (withOutputs (some .unit) s) = .next t) : Answers s i t := by
  obtain ⟨hf, h⟩ | ⟨hf, rfl⟩ := whenIdle_next h
  · split at h
    · next hn =>
      split at h
      · cases h
      · next F hF =>
        split at h <;> cases h
        · next hs => exact .decAnswered hd hf hn hF hs
        · next hs => exact .decRefused hd hf (.inr ⟨F, hF, Bool.eq_false_iff.2 hs⟩)
    · next hn => cases h; exact .decRefused hd hf (.inl (Bool.eq_false_iff.2 hn))
  · exact .decBusy hd hf

theorem answers_of_exec {i : Instr} {s t : State} (h : exec i s = .next t) : Answers s i t := by
  cases i with
  | evByte b => exact evByte_answers h
  | evEmpty =>
    obtain ⟨-, ⟨hf, rfl⟩ | ⟨hf, rfl⟩ | ⟨hf, rfl⟩⟩ := evEmpty_next h
    · exact .notEnabled rfl hf
    · exact .shiftHole hf
    · exact .abort hf
  | nop => obtain ⟨-, rfl⟩ := nop_next h; exact .nop
  | start =>
    obtain ⟨-, ⟨hf, rfl⟩ | ⟨hf, rfl⟩⟩ := start_next h
    · exact .start hf
    · exact .startIgnored hf
  | stop =>
    obtain ⟨-, ⟨hf, rfl⟩ | ⟨hf, rfl⟩⟩ := stop_next h
    · exact .stopIgnored hf
    · exact .stopRequested hf
  | setEng v => obtain ⟨-, rfl⟩ := setEng_next h; exact .setEng
  | getData =>
    obtain ⟨-, ⟨hv, rfl⟩ | ⟨hv, rfl⟩⟩ := getData_next h
    · exact .getReading hv
    · exact .getEmpty hv
  | getStatus => obtain ⟨-, rfl⟩ := getStatus_next h; exact .getStatus
  | clrWarn m => obtain ⟨-, rfl⟩ := clrWarn_next h; exact .clrWarn
  | bufClr =>
    obtain ⟨-, ⟨hf, rfl⟩ | ⟨hf, rfl⟩⟩ := bufClr_next h
    · exact .bufClr hf
    · exact .bufClrBusy hf
  | bufPush b =>
    obtain ⟨-, ⟨hf, rfl⟩ | ⟨hf, hc, rfl⟩ | ⟨hf, hc, rfl⟩⟩ := bufPush_next h
    · exact .bufPushBusy hf
    · exact .bufFull hf hc
    · exact .bufPush hf hc
  | decFw => exact decode_answers .fw (decFw_next h).2
  | decMac => exact decode_answers .mac (decMac_next h).2

theorem exec_of_decode_answer {s t : State} {i : Instr} {need : Nat} {answer : List Byte → Response}
    (hw : s.P.wf = true) (hd : Decodes s.P i need answer)
    (h : decodeAck need answer (withOutputs (some .unit) s) = .next t) : exec i s = .next t := by
  rw [exec_of_decodes hd, hostStep_of_wf hw, h]

theorem decodeAck_of_busy {s : State} (need : Nat) (answer : List Byte → Response) (hf : s.FSM ≠ .idle) :
    decodeAck need answer s = .next (raiseFault .busy (respond .noFields s)) := by
  simp [decodeAck, whenIdle, hf]

theorem decodeAck_of_unmet {s : State} {need : Nat} (answer : List Byte → Response) (hf : s.FSM = .idle)
    (hu : decUnmet need s) :
    decodeAck need answer s = .next (raiseFault .decPrecond (respond .noFields s)) := by
  obtain hn | ⟨F, hF, hs⟩ := hu
  · have hn' : decFits need (respond .noFields s) = false := hn
    simp [decodeAck, whenIdle, hf, hn', refuseDecode]
  · have hF' : (respond .noFields s).memRead 0 s.BUF_LEN = some F := hF
    simp [decodeAck, whenIdle, hf, hF', hs, refuseDecode]

theorem decodeAck_of_met {s : State} {need : Nat} {F : List Byte} (answer : List Byte → Response)
    (hf : s.FSM = .idle) (hn : decFits need s = true) (hF : s.memRead 0 s.BUF_LEN = some F)
    (hs : startsWith F s.P.HDR_ACK = true) :
    decodeAck need answer s =
      .next (respond (answer F) (checkTrailer F s.BUF_LEN s.P.TRL_ACK (respond .noFields s))) := by
  have hn' : decFits need (respond .noFields s) = true := hn
  have hF' : (respond .noFields s).memRead 0 s.BUF_LEN = some F := hF
  simp [decodeAck, whenIdle, hf, hn', hF', hs]

theorem exec_of_collectByte {s : State} {b : Byte} (hw : s.P.wf = true) (hf : s.FSM = .collect)
    (hc : s.BUF_LEN < s.P.BUF_CAP) : exec (.evByte b) s = afterStore (byteStored b s) := by
  rw [exec, execEvByte, eventStep_of_wf hw]
  simp only [withOutputs_FSM, hf]
  exact storeThen_of_le hc

/-- A whole frame is completed from the bytes read back (R171). -/
theorem afterStore_of_whole {s : State} {F : List Byte} (hl : s.frameLen ≤ s.BUF_LEN + 1)
    (hF : s.FB.readList 0 s.frameLen = some F) : afterStore s = .next (completeFrame F s) := by
  simp [afterStore, Nat.not_lt.2 hl, hF]

theorem exec_of_huntByte {s : State} {b : Byte} (hw : s.P.wf = true) (hf : s.FSM = .hunt) :
    exec (.evByte b) s = huntByte b (withOutputs none s) := by
  rw [exec, execEvByte, eventStep_of_wf hw]
  simp only [withOutputs_FSM, hf]

theorem exec_of_answers {i : Instr} {s t : State} (hw : s.P.wf = true) (h : Answers s i t) :
    exec i s = .next t := by
  cases h with
  | notEnabled he hf =>
    cases i with
    | evByte b => simp [exec, execEvByte, eventStep_of_wf hw, hf]
    | evEmpty => simp [exec, execEvEmpty, eventStep_of_wf hw, hf]
    | _ => cases he
  | shiftByte hf hm =>
    rw [exec_of_huntByte hw hf]
    simp [huntByte, hm]
  | matchByte hf hm hc =>
    rw [exec_of_huntByte hw hf]
    simp only [huntByte, withOutputs_P, withOutputs_WIN, hm, if_true]
    exact storeThen_of_le hc
  | shiftHole hf => simp [exec, execEvEmpty, eventStep_of_wf hw, hf, huntEmpty]
  | storeByte hf hc hl =>
    rw [exec_of_collectByte hw hf hc]
    simp [afterStore, hl]
  | dropByte hf hc hl hF hd =>
    rw [exec_of_collectByte hw hf hc, afterStore_of_whole (s := byteStored _ s) hl hF]
    simp [completeFrame, hd]
  | deliverByte hf hc hl hF hd =>
    rw [exec_of_collectByte hw hf hc, afterStore_of_whole (s := byteStored _ s) hl hF]
    rcases hd with hd | hd <;> simp [completeFrame, hd]
  | abort hf => simp [exec, execEvEmpty, eventStep_of_wf hw, hf, collectEmpty]
  | nop => simp [exec, execNop, hostStep_of_wf hw]
  | start hf | startIgnored hf => simp [exec, execStart, hostStep_of_wf hw, hf]
  | stopRequested hf | stopIgnored hf => simp [exec, execStop, hostStep_of_wf hw, hf]
  | setEng => simp [exec, execSetEng, hostStep_of_wf hw]
  | getReading hv | getEmpty hv => simp [exec, execGetData, hostStep_of_wf hw, hv]
  | getStatus =>
    rw [exec, execGetStatus, hostStep_of_wf hw]
    rfl
  | clrWarn => simp [exec, execClrWarn, hostStep_of_wf hw]
  | bufClr hf | bufClrBusy hf => simp [exec, execBufClr, hostStep_of_wf hw, whenIdle, hf]
  | bufPush hf hc =>
    simp [exec, execBufPush, hostStep_of_wf hw, whenIdle, hf, Nat.ne_of_lt hc, storeThen, hc]
  | bufFull hf hc | bufPushBusy hf => simp [exec, execBufPush, hostStep_of_wf hw, whenIdle, *]
  | decBusy hd hf => exact exec_of_decode_answer hw hd (decodeAck_of_busy _ _ hf)
  | decRefused hd hf hu => exact exec_of_decode_answer hw hd (decodeAck_of_unmet _ hf hu)
  | decAnswered hd hf hn hF hs => exact exec_of_decode_answer hw hd (decodeAck_of_met _ hf hn hF hs)

/-- exec goes on exactly with the outcomes of `Answers`, and only for a well-formed record (R8). -/
theorem exec_next_iff {i : Instr} {s t : State} :
    exec i s = .next t ↔ s.P.wf = true ∧ Answers s i t := by
  constructor
  · intro h
    refine ⟨?_, answers_of_exec h⟩
    by_contra hw
    rw [exec_of_not_wf i (Bool.eq_false_iff.2 hw)] at h
    cases h
  · rintro ⟨hw, h⟩
    exact exec_of_answers hw h

end Sys2Proof.Machine
end

section
/-! PROOFS. The invariant of spec/10_state.md R52: the state after reset has it (R55), each shared operation keeps
it, and so does every step. -/

namespace Sys2Proof.Machine

/-! ### The memory's addresses -/

theorem Memory.within_iff {m : Memory} {cap : Nat} : m.within cap = true ↔ ∀ c ∈ m, c.1 < cap := by
  simp [Memory.within]

theorem Memory.write_within {m : Memory} {cap a : Nat} (hm : m.within cap = true) (ha : a < cap) (b : Byte) :
    (m.write a b).within cap = true := by
  refine Memory.within_iff.2 fun c hc => ?_
  obtain rfl | hc := Memory.mem_write hc
  · exact ha
  · exact Memory.within_iff.1 hm c hc

theorem Memory.writeList_within {m : Memory} {cap a : Nat} {bs : List Byte} (hm : m.within cap = true)
    (ha : a + bs.length ≤ cap) : (m.writeList a bs).within cap = true := by
  refine Memory.within_iff.2 fun c hc => ?_
  obtain hc | hc := Memory.mem_writeList hc
  · omega
  · exact Memory.within_iff.1 hm c hc

theorem Memory.read_write_isSome {m : Memory} {x : Nat} (h : (m.read x).isSome = true) (a : Nat) (b : Byte) :
    ((m.write a b).read x).isSome = true := by
  rw [Memory.read_write]
  split
  · rfl
  · exact h

/-- A stored list reads back as the list it is. -/
theorem Memory.readList_writeList (m : Memory) (a : Nat) (bs : List Byte) :
    (m.writeList a bs).readList a bs.length = some bs :=
  Memory.readList_eq_some.2 ⟨rfl, fun _ h => Memory.read_writeList_same h⟩

/-! ### Windows -/

theorem Window.holes_legal : Window.holes.legal := by decide

theorem Entry.byte_legal (b : Byte) : (Entry.byte b).legal := nofun

theorem Entry.hole_legal : Entry.hole.legal := fun _ => rfl

theorem Window.shift_legal {W : Window} {x : Entry} (hW : W.legal) (hx : x.legal) : (W.shift x).legal := by
  obtain ⟨-, h1, h2, h3⟩ := hW
  exact ⟨h1, h2, h3, hx⟩

/-! ### Reset -/

/-- Settles O31: both spellings of the state after reset are `State.resetWith` of some record. -/
theorem resetValuesAreAsSpecified : Obligations.ResetValuesAreAsSpecified := by
  unfold Obligations.ResetValuesAreAsSpecified
  rintro s (rfl | ⟨P, rfl⟩) <;> exact ⟨rfl, rfl, rfl, rfl, rfl, rfl, rfl, rfl, rfl, rfl, rfl, rfl⟩

theorem safe_resetWith {P : Params} (hP : P.wf = true) : SafeState (State.resetWith P) where
  params := hP
  hunt := nofun
  collect := nofun
  header := nofun
  idle _ := rfl
  bufLen := Nat.zero_le _
  window := Window.holes_legal
  warn := by simp [State.resetWith]
  failcnt := Nat.two_pow_pos _
  csumCnt := Nat.two_pow_pos _
  slot := nofun
  memory := List.Pairwise.nil
  cells := rfl
  filled := nofun

/-- Settles O33: `safe_resetWith`, and `P_TEST` is well-formed. -/
theorem resetIsSafe : Obligations.ResetIsSafe := by
  unfold Obligations.ResetIsSafe
  exact ⟨safe_resetWith (by decide), fun P hP => safe_resetWith hP⟩

/-! ### The shared operations keep the invariant -/

section operations
variable {s : State}

theorem SafeState.inputs (h : SafeState s) (es : List EventWord) (cs : List CommandWord) (ts : List Turn) :
    SafeState { s with stream := es, commands := cs, schedule := ts } := { h with }

theorem SafeState.withOutputs (h : SafeState s) (r : Option Response) : SafeState (withOutputs r s) :=
  { h with }

theorem SafeState.respond (h : SafeState s) (r : Response) : SafeState (respond r s) := { h with }

theorem SafeState.emit (h : SafeState s) (x : Signal) : SafeState (emit x s) := { h with }

theorem SafeState.engMode (h : SafeState s) (v : Bool) : SafeState { s with ENG_MODE := v } := { h with }

theorem SafeState.raiseFault (h : SafeState s) (f : HostFault) : SafeState (raiseFault f s) := { h with }

theorem SafeState.raiseWarning (h : SafeState s) (w : Warning) : SafeState (raiseWarning w s) :=
  { h with warn := by simp [h.warn, w.bit_getElem_seven] }

theorem SafeState.clearWarnings (h : SafeState s) (m : Byte) : SafeState (clearWarnings m s) :=
  { h with warn := by simp [h.warn] }

theorem SafeState.window_set (h : SafeState s) {W : Window} (hW : W.legal) : SafeState { s with WIN := W } :=
  { h with window := hW }

theorem SafeState.countByte (h : SafeState s) : SafeState (countByte s) :=
  { h with failcnt := Nat.two_pow_pos _ }

theorem SafeState.countEmpty (h : SafeState s) : SafeState (countEmpty s) := by
  have hc : SafeState { s with FAILCNT := satInc s.P.CNT_W s.FAILCNT } :=
    { h with failcnt := satInc_lt h.failcnt }
  simp only [Machine.countEmpty]
  split
  · exact hc.raiseWarning _
  · exact hc

theorem SafeState.countMismatch (h : SafeState s) : SafeState (countMismatch s) :=
  have hc : SafeState { s with CSUM_CNT := satInc s.P.CNT_W s.CSUM_CNT } :=
    { h with csumCnt := satInc_lt h.csumCnt }
  hc.raiseWarning _

theorem SafeState.checkTrailer (h : SafeState s) (F : List Byte) (L : Nat) (T : Marker) :
    SafeState (checkTrailer F L T s) := by
  unfold Machine.checkTrailer
  split
  · exact h
  · exact h.countMismatch

theorem SafeState.checkTargetType (h : SafeState s) (c : Byte) : SafeState (checkTargetType c s) := by
  unfold Machine.checkTargetType
  split
  · exact h.raiseWarning _
  · exact h

theorem SafeState.publish (h : SafeState s) (r : Reading) : SafeState (publish r s) :=
  { h with slot := fun _ => rfl }

theorem SafeState.enterHunt (h : SafeState s) : SafeState (enterHunt s) :=
  { h with
    hunt := fun _ => rfl
    collect := nofun
    header := nofun
    idle := nofun
    bufLen := Nat.zero_le _
    window := Window.holes_legal
    filled := nofun }

theorem SafeState.honourStop (h : SafeState s) : SafeState (honourStop s) :=
  { h with
    hunt := nofun
    collect := nofun
    header := nofun
    idle := fun _ => rfl
    bufLen := Nat.zero_le _
    filled := nofun }

theorem SafeState.afterPublish (h : SafeState s) : SafeState (afterPublish s) := by
  unfold Machine.afterPublish
  split
  · exact h.honourStop
  · exact h.enterHunt

theorem SafeState.dropFrame (h : SafeState s) : SafeState (dropFrame s) :=
  ((h.engMode true).raiseWarning _).enterHunt

theorem SafeState.deliverFrame (h : SafeState s) (F : List Byte) : SafeState (deliverFrame F s) :=
  (((h.checkTrailer _ _ _).checkTargetType _).publish _).afterPublish

/-- A pending stop may be set while running and dropped anywhere (R52(c)). -/
theorem SafeState.stopReq (h : SafeState s) {v : Bool} (hv : s.FSM = .idle → v = false) :
    SafeState { s with STOP_REQ := v } := { h with idle := hv }

/-- A store at the fill index: the valid bytes, and in COLLECT the header before it, stay (R171, R262). -/
theorem SafeState.store (h : SafeState s) (hc : s.BUF_LEN < s.P.BUF_CAP) (b : Byte) :
    SafeState { s with FB := s.FB.write s.BUF_LEN b } :=
  { h with
    header := fun hf => by
      have hlen := (h.collect hf).1
      rw [← h.header hf]
      exact Memory.readList_congr fun x _ hx => Memory.read_write_other _ _ (by omega)
    memory := Memory.write_wf h.memory _ _
    cells := Memory.write_within h.cells hc b
    filled := fun a ha => Memory.read_write_isSome (h.filled a ha) _ _ }

/-- A written byte at the fill index becomes a valid one. -/
theorem SafeState.countStored (h : SafeState s) (hc : s.BUF_LEN < s.P.BUF_CAP)
    (hb : (s.FB.read s.BUF_LEN).isSome = true) (hf : s.FSM ≠ .hunt)
    (hl : s.FSM = .collect → s.BUF_LEN + 1 < s.frameLen) :
    SafeState { s with BUF_LEN := s.BUF_LEN + 1 } :=
  { h with
    hunt := fun hf' => absurd hf' hf
    collect := fun hf => ⟨Nat.le_succ_of_le (h.collect hf).1, hl hf⟩
    bufLen := hc
    filled := fun a ha => by
      obtain ha | rfl := Nat.lt_succ_iff_lt_or_eq.1 ha
      · exact h.filled a ha
      · exact hb }

theorem SafeState.byteStored (h : SafeState s) (hc : s.BUF_LEN < s.P.BUF_CAP) (b : Byte) :
    SafeState (byteStored b s) := (h.withOutputs none).countByte.store hc b

/-- BUF_CLR in IDLE, where BUF_LEN is bound by nothing below. -/
theorem SafeState.bufClr (h : SafeState s) (hf : s.FSM = .idle) : SafeState { s with BUF_LEN := 0 } :=
  { h with
    hunt := fun _ => rfl
    collect := fun hf' => by simp [hf] at hf'
    bufLen := Nat.zero_le _
    filled := nofun }

/-- The header match action: `FB[0..3]` are the header, and a frame is longer than its header (R146). -/
theorem SafeState.latchHeader (h : SafeState s) (v : Bool) :
    SafeState { s with
      FB := s.FB.writeList 0 s.P.HDR_TLM.toList
      ENG_LATCH := v
      BUF_LEN := 4
      FSM := .collect } :=
  { h with
    hunt := nofun
    collect := fun _ => ⟨Nat.le_refl 4, by
      have := s.P.std_le_frameLen v
      rw [frameLen_eq]
      dsimp only
      omega⟩
    header := fun _ => Memory.readList_writeList _ _ _
    idle := nofun
    bufLen := Params.four_le_bufCap h.params
    memory := Memory.writeList_wf h.memory _ _
    cells := Memory.writeList_within h.cells (by simpa using Params.four_le_bufCap h.params)
    filled := fun a ha => by
      rw [← Nat.zero_add a, Memory.read_writeList_same (by simpa using ha)]
      rfl }

end operations

/-! ### Every step keeps it -/

theorem SafeState.answers {i : Instr} {s t : State} (h : SafeState s) (ha : Answers s i t) : SafeState t := by
  cases ha with
  | notEnabled | nop => exact h.withOutputs _
  | shiftByte =>
    exact (h.withOutputs none).countByte.window_set (Window.shift_legal h.window (Entry.byte_legal _))
  | matchByte =>
    exact (((h.withOutputs none).countByte.window_set
      (Window.shift_legal h.window (Entry.byte_legal _))).latchHeader _).emit _
  | shiftHole =>
    exact (h.withOutputs none).countEmpty.window_set (Window.shift_legal h.window Entry.hole_legal)
  | storeByte hf hc hl =>
    exact (h.byteStored hc _).countStored hc (by simp) (by simp [hf]) fun _ => hl
  | dropByte _ hc => exact (h.byteStored hc _).dropFrame
  | deliverByte _ hc => exact (h.byteStored hc _).deliverFrame _
  | abort => exact ((h.withOutputs none).countEmpty.raiseWarning _).enterHunt
  | start => exact ((h.withOutputs _).stopReq fun _ => rfl).enterHunt.emit _
  | startIgnored | stopIgnored => exact (h.withOutputs _).raiseWarning _
  | stopRequested hf => exact (h.withOutputs _).stopReq fun hf' => absurd hf' hf
  | setEng => exact (h.withOutputs _).engMode _
  | getReading | getStatus => exact (h.withOutputs _).respond _
  | getEmpty => exact ((h.withOutputs _).raiseWarning _).respond _
  | clrWarn => exact (h.withOutputs _).clearWarnings _
  | bufClr hf => exact (h.withOutputs _).bufClr hf
  | bufClrBusy | bufFull | bufPushBusy => exact (h.withOutputs _).raiseFault _
  | bufPush hf hc =>
    exact ((h.withOutputs _).store hc _).countStored hc (by simp) (by simp [hf]) (by simp [hf])
  | decBusy | decRefused => exact ((h.withOutputs _).respond _).raiseFault _
  | decAnswered => exact (((h.withOutputs _).respond _).checkTrailer _ _ _).respond _

theorem SafeState.exec {i : Instr} {s t : State} (h : SafeState s) (he : exec i s = .next t) : SafeState t :=
  h.answers (answers_of_exec he)

theorem SafeState.waitStep {s t : State} (h : SafeState s) (hs : waitStep s = .next t) : SafeState t := by
  obtain ⟨-, rfl⟩ := waitStep_next hs
  exact h.withOutputs none

theorem SafeState.eventTurn {s t : State} (h : SafeState s) (hs : eventTurn s = .next t) : SafeState t := by
  obtain ⟨-, hwait⟩ | ⟨-, w, ws, -, hrun⟩ := eventTurn_cases s
  · exact h.waitStep (hwait ▸ hs)
  · exact (h.inputs ws _ _).exec (hrun ▸ hs)

theorem SafeState.hostTurn {s t : State} (h : SafeState s) (hs : hostTurn s = .next t) : SafeState t := by
  obtain ⟨-, hwait⟩ | ⟨w, ws, -, ⟨i, -, hrun⟩ | ⟨r, -, hrun⟩⟩ := hostTurn_cases s
  · exact h.waitStep (hwait ▸ hs)
  · exact (h.inputs _ ws _).exec (hrun ▸ hs)
  · obtain ⟨-, rfl⟩ := illegal_next (hrun ▸ hs)
    exact ((h.inputs _ ws _).withOutputs _).raiseFault _

theorem SafeState.resetStep {s t : State} (h : SafeState s) (hs : resetStep s = .next t) : SafeState t := by
  obtain ⟨-, rfl⟩ := resetStep_next hs
  exact (safe_resetWith h.params).inputs _ _ _

/-- Settles O34: whoever's turn it is, what runs keeps the invariant. -/
theorem stepKeepsSafeStates : Obligations.StepKeepsSafeStates := by
  unfold Obligations.StepKeepsSafeStates
  intro s t h hs
  obtain ⟨-, hstep⟩ | ⟨ts, -, hstep⟩ | ⟨ts, -, hstep⟩ | ⟨ts, -, hstep⟩ := step_cases s
  · exact h.waitStep (hstep ▸ hs)
  · exact (h.inputs _ _ ts).eventTurn (hstep ▸ hs)
  · exact (h.inputs _ _ ts).hostTurn (hstep ▸ hs)
  · exact (h.inputs _ _ ts).resetStep (hstep ▸ hs)

end Sys2Proof.Machine
end

section
/-! PROOFS. What is not read does not matter: the bytes of `FB` beyond the valid ones and the registers of the slot
that hold no reading (spec/93_implementation_defined.md U6, U7), `WIN` and `ENG_LATCH` for the host
(spec/10_state.md R49), and `ENG_MODE` for the frame in flight (R37, R38). Each time the same outcome of `Answers`
is given in the other state. -/

namespace Sys2Proof.Machine

/-! ### The branching operations as one update of the state -/

theorem countEmpty_eq (s : State) : countEmpty s =
    { s with
      FAILCNT := satInc s.P.CNT_W s.FAILCNT
      WARN := if 32 < satInc s.P.CNT_W s.FAILCNT then s.WARN ||| Warning.baudSuspect.bit else s.WARN
      signals :=
        if 32 < satInc s.P.CNT_W s.FAILCNT then s.signals ++ [.warning .baudSuspect] else s.signals } := by
  simp only [countEmpty, Config.FAIL_THRESH]
  split <;> rfl

theorem checkTrailer_eq (F : List Byte) (L : Nat) (T : Marker) (s : State) : checkTrailer F L T s =
    { s with
      CSUM_CNT := if trailerOk F L T then s.CSUM_CNT else satInc s.P.CNT_W s.CSUM_CNT
      WARN := if trailerOk F L T then s.WARN else s.WARN ||| Warning.csumMismatch.bit
      signals := if trailerOk F L T then s.signals else s.signals ++ [.warning .csumMismatch] } := by
  unfold checkTrailer
  split <;> rfl

theorem checkTargetType_eq (c : Byte) (s : State) : checkTargetType c s =
    { s with
      WARN := if reservedTargetType c then s.WARN ||| Warning.ttInvalid.bit else s.WARN
      signals := if reservedTargetType c then s.signals ++ [.warning .ttInvalid] else s.signals } := by
  unfold checkTargetType
  split <;> rfl

theorem afterPublish_eq (s : State) : afterPublish s =
    { s with
      FSM := if s.STOP_REQ then .idle else .hunt
      STOP_REQ := false
      WIN := if s.STOP_REQ then s.WIN else Window.holes
      BUF_LEN := 0
      signals := if s.STOP_REQ then s.signals ++ [.stopped] else s.signals } := by
  cases hs : s.STOP_REQ <;> simp [afterPublish, hs, honourStop, enterHunt, emit]

/-! ### States with other unreadable contents -/

/-- The state with another memory and other slot registers. -/
def State.withContents (m : Memory) (S : Slot) (s : State) : State := { s with FB := m, SLOT := S }

/-- An operation that neither reads nor writes the memory and the slot's registers. -/
def IgnoresContents (f : State → State) : Prop :=
  ∀ m S, Function.Commute f (State.withContents m S)

theorem ignoresContents_countEmpty : IgnoresContents countEmpty := fun m S s => by
  rw [countEmpty_eq, countEmpty_eq]
  rfl

theorem ignoresContents_checkTrailer (F : List Byte) (L : Nat) (T : Marker) :
    IgnoresContents (checkTrailer F L T) := fun m S s => by
  rw [checkTrailer_eq, checkTrailer_eq]
  rfl

theorem ignoresContents_checkTargetType (c : Byte) : IgnoresContents (checkTargetType c) := fun m S s => by
  rw [checkTargetType_eq, checkTargetType_eq]
  rfl

theorem ignoresContents_afterPublish : IgnoresContents afterPublish := fun m S s => by
  rw [afterPublish_eq, afterPublish_eq]
  rfl

/-! ### Turns, forward -/

theorem step_of_no_turn {s : State} (h : s.schedule = []) : step s = waitStep s := by simp [step, h]

theorem step_of_reset_turn {s : State} {ts : List Turn} (h : s.schedule = .reset :: ts) :
    step s = resetStep { s with schedule := ts } := by simp [step, h]

theorem eventTurn_of_waiting {s : State} (h : s.stream = [] ∨ s.FSM = .idle) : eventTurn s = waitStep s := by
  obtain ⟨-, heq⟩ | ⟨hf, w, ws, hs, -⟩ := eventTurn_cases s
  · exact heq
  · simp [hf, hs] at h

theorem hostTurn_of_commands_nil {s : State} (h : s.commands = []) : hostTurn s = waitStep s := by
  simp [hostTurn, h]

theorem hostTurn_of_illegal_cons {s : State} {w : CommandWord} {ws : List CommandWord} {r : IllegalWord}
    (hw : s.commands = w :: ws) (hr : decodeCommand w = .error r) :
    hostTurn s = execIllegal { s with commands := ws } := by
  simp [hostTurn, hw, runCommandWord, hr]

namespace SameReadable
variable {s t : State}

theorem eq_withContents (h : SameReadable s t) : t = s.withContents t.FB t.SLOT := by
  have heq := congrArg (State.withContents t.FB t.SLOT) h.rest
  exact heq

theorem exists_contents (h : SameReadable s t) : ∃ m S, t = s.withContents m S := ⟨_, _, h.eq_withContents⟩

/-- An operation that ignores the contents keeps two states alike if it uncovers no byte and does not touch
`SLOT_VALID`. -/
theorem map (h : SameReadable s t) {f : State → State} (hf : IgnoresContents f)
    (hlen : (f s).BUF_LEN ≤ s.BUF_LEN) (hvalid : (f s).SLOT_VALID = s.SLOT_VALID) :
    SameReadable (f s) (f t) := by
  have hs : f s = (f s).withContents s.FB s.SLOT := hf s.FB s.SLOT s
  have hFB : (f s).FB = s.FB := by rw [hs]; rfl
  have hSLOT : (f s).SLOT = s.SLOT := by rw [hs]; rfl
  obtain ⟨m, S, rfl⟩ := h.exists_contents
  rw [hf m S s]
  exact
    { rest := rfl
      bytes := fun a ha => hFB ▸ h.bytes a (Nat.lt_of_lt_of_le ha hlen)
      gatesValid := hSLOT ▸ h.gatesValid
      reading := fun hv => hSLOT ▸ h.reading (hvalid ▸ hv) }

/-! The operations. -/

theorem inputs (h : SameReadable s t) (es : List EventWord) (cs : List CommandWord) (ts : List Turn) :
    SameReadable { s with stream := es, commands := cs, schedule := ts }
      { t with stream := es, commands := cs, schedule := ts } :=
  h.map (f := fun s => { s with stream := es, commands := cs, schedule := ts }) (fun _ _ _ => rfl) le_rfl rfl

theorem withOutputs (h : SameReadable s t) (r : Option Response) :
    SameReadable (withOutputs r s) (withOutputs r t) := h.map (fun _ _ _ => rfl) le_rfl rfl

theorem respond (h : SameReadable s t) (r : Response) : SameReadable (respond r s) (respond r t) :=
  h.map (fun _ _ _ => rfl) le_rfl rfl

theorem emit (h : SameReadable s t) (x : Signal) : SameReadable (emit x s) (emit x t) :=
  h.map (fun _ _ _ => rfl) le_rfl rfl

theorem raiseWarning (h : SameReadable s t) (w : Warning) :
    SameReadable (raiseWarning w s) (raiseWarning w t) := h.map (fun _ _ _ => rfl) le_rfl rfl

theorem raiseFault (h : SameReadable s t) (f : HostFault) : SameReadable (raiseFault f s) (raiseFault f t) :=
  h.map (fun _ _ _ => rfl) le_rfl rfl

theorem clearWarnings (h : SameReadable s t) (m : Byte) :
    SameReadable (clearWarnings m s) (clearWarnings m t) := h.map (fun _ _ _ => rfl) le_rfl rfl

theorem countByte (h : SameReadable s t) : SameReadable (countByte s) (countByte t) :=
  h.map (fun _ _ _ => rfl) le_rfl rfl

theorem countEmpty (h : SameReadable s t) : SameReadable (countEmpty s) (countEmpty t) :=
  h.map ignoresContents_countEmpty (by simp) (by simp)

theorem checkTrailer (h : SameReadable s t) (F : List Byte) (L : Nat) (T : Marker) :
    SameReadable (checkTrailer F L T s) (checkTrailer F L T t) :=
  h.map (ignoresContents_checkTrailer F L T) (by simp) (by simp)

theorem checkTargetType (h : SameReadable s t) (c : Byte) :
    SameReadable (checkTargetType c s) (checkTargetType c t) :=
  h.map (ignoresContents_checkTargetType c) (by simp) (by simp)

theorem afterPublish (h : SameReadable s t) : SameReadable (afterPublish s) (afterPublish t) :=
  h.map ignoresContents_afterPublish (by simp) (by simp)

theorem enterHunt (h : SameReadable s t) : SameReadable (enterHunt s) (enterHunt t) :=
  h.map (fun _ _ _ => rfl) (Nat.zero_le _) rfl

theorem dropFrame (h : SameReadable s t) : SameReadable (dropFrame s) (dropFrame t) :=
  h.map (fun _ _ _ => rfl) (Nat.zero_le _) rfl

theorem window_set (h : SameReadable s t) (W : Window) : SameReadable { s with WIN := W } { t with WIN := W } :=
  h.map (f := fun s => { s with WIN := W }) (fun _ _ _ => rfl) le_rfl rfl

theorem stopReq (h : SameReadable s t) (v : Bool) : SameReadable { s with STOP_REQ := v } { t with STOP_REQ := v } :=
  h.map (f := fun s => { s with STOP_REQ := v }) (fun _ _ _ => rfl) le_rfl rfl

theorem engMode (h : SameReadable s t) (v : Bool) : SameReadable { s with ENG_MODE := v } { t with ENG_MODE := v } :=
  h.map (f := fun s => { s with ENG_MODE := v }) (fun _ _ _ => rfl) le_rfl rfl

theorem bufClr (h : SameReadable s t) : SameReadable { s with BUF_LEN := 0 } { t with BUF_LEN := 0 } :=
  h.map (f := fun s => { s with BUF_LEN := 0 }) (fun _ _ _ => rfl) (Nat.zero_le _) rfl

/-- A publication replaces every register that can be read (R186). -/
theorem publish (h : SameReadable s t) (r : Reading) : SameReadable (publish r s) (publish r t) := by
  obtain ⟨m, S, rfl⟩ := h.exists_contents
  exact
    { rest := rfl
      bytes := h.bytes
      gatesValid := rfl
      reading := fun _ => by simp }

theorem deliverFrame (h : SameReadable s t) (F : List Byte) :
    SameReadable (deliverFrame F s) (deliverFrame F t) := by
  have hd := fun r L T => (((h.checkTrailer F L T).checkTargetType r.TT).publish r).afterPublish
  obtain ⟨m, S, rfl⟩ := h.exists_contents
  exact hd _ _ _

/-- Two states alike, after the same byte is stored at the fill index, agree up to that byte. -/
theorem read_write_fill (h : SameReadable s t) (b : Byte) {a : Nat} (ha : a ≤ s.BUF_LEN) :
    (t.FB.write s.BUF_LEN b).read a = (s.FB.write s.BUF_LEN b).read a := by
  obtain ha | rfl := Nat.lt_or_eq_of_le ha
  · rw [Memory.read_write_other _ _ (Nat.ne_of_lt ha), Memory.read_write_other _ _ (Nat.ne_of_lt ha)]
    exact h.bytes a ha
  · rw [Memory.read_write_same, Memory.read_write_same]

/-- A store at the fill index, whether or not the byte is then counted. -/
theorem store (h : SameReadable s t) (b : Byte) {n : Nat} (hn : n ≤ s.BUF_LEN + 1) :
    SameReadable { s with FB := s.FB.write s.BUF_LEN b, BUF_LEN := n }
      { t with FB := t.FB.write s.BUF_LEN b, BUF_LEN := n } := by
  obtain ⟨m, S, rfl⟩ := h.exists_contents
  exact
    { rest := rfl
      bytes := fun a ha => h.read_write_fill b (Nat.lt_succ_iff.1 (Nat.lt_of_lt_of_le ha hn))
      gatesValid := h.gatesValid
      reading := h.reading }

/-- The header match action makes exactly the header readable (R146). -/
theorem latchHeader (h : SameReadable s t) (v : Bool) :
    SameReadable
      { s with FB := s.FB.writeList 0 s.P.HDR_TLM.toList, ENG_LATCH := v, BUF_LEN := 4, FSM := .collect }
      { t with FB := t.FB.writeList 0 s.P.HDR_TLM.toList, ENG_LATCH := v, BUF_LEN := 4, FSM := .collect } := by
  obtain ⟨m, S, rfl⟩ := h.exists_contents
  refine ⟨rfl, fun a ha => ?_, h.gatesValid, h.reading⟩
  have ha' : a < s.P.HDR_TLM.toList.length := ha
  rw [← Nat.zero_add a, Memory.read_writeList_same ha', Memory.read_writeList_same ha']

theorem byteStored (h : SameReadable s t) (b : Byte) : SameReadable (byteStored b s) (byteStored b t) := by
  have hs := (h.withOutputs none).countByte.store b (Nat.le_succ _)
  obtain ⟨m, S, rfl⟩ := h.exists_contents
  exact hs

/-! The reads. -/

theorem memRead_valid (h : SameReadable s t) : t.memRead 0 s.BUF_LEN = s.memRead 0 s.BUF_LEN := by
  have hFB : t.FB.readList 0 s.BUF_LEN = s.FB.readList 0 s.BUF_LEN :=
    Memory.readList_congr fun a _ ha => h.bytes a (by omega)
  obtain ⟨m, S, rfl⟩ := h.exists_contents
  exact congrArg (fun r => if 0 + s.BUF_LEN ≤ s.BUF_LEN then r else none) hFB

theorem readList_frame (h : SameReadable s t) (b : Byte) (hl : s.frameLen ≤ s.BUF_LEN + 1) :
    (t.FB.write s.BUF_LEN b).readList 0 s.frameLen = (s.FB.write s.BUF_LEN b).readList 0 s.frameLen :=
  Memory.readList_congr fun a _ ha => h.read_write_fill b (by omega)

theorem statusRegs (h : SameReadable s t) : t.statusRegs = s.statusRegs := by
  have hg := h.gatesValid
  obtain ⟨m, S, rfl⟩ := h.exists_contents
  have hg' : S.GATES_VALID = s.SLOT.GATES_VALID := hg
  simp [State.statusRegs, State.ctrl, State.status, State.baudNow, State.withContents, hg']
  rfl

theorem decUnmet (h : SameReadable s t) {need : Nat} (hu : decUnmet need s) : decUnmet need t := by
  have hm := h.memRead_valid
  obtain ⟨m, S, rfl⟩ := h.exists_contents
  obtain hn | ⟨F, hF, hs⟩ := hu
  · exact .inl hn
  · exact .inr ⟨F, hm.trans hF, hs⟩

/-- Whatever an instruction answers in one of two states alike, it answers in the other. -/
theorem answers {i : Instr} {s' : State} (h : SameReadable s t) (ha : Answers s i s') :
    ∃ t', Answers t i t' ∧ SameReadable s' t' := by
  have hstatus := h.statusRegs
  have hmem := h.memRead_valid
  have hframe := h.readList_frame
  have hreading := h.reading
  have hunmet := fun need => h.decUnmet (need := need)
  obtain ⟨m, S, rfl⟩ := h.exists_contents
  cases ha with
  | notEnabled he hf => exact ⟨_, .notEnabled he hf, h.withOutputs _⟩
  | shiftByte hf hm => exact ⟨_, .shiftByte hf hm, (h.withOutputs _).countByte.window_set _⟩
  | @matchByte b hf hm hc =>
    have hshift := (h.withOutputs none).countByte.window_set (s.WIN.shift (.byte b))
    exact ⟨_, .matchByte hf hm hc, (hshift.latchHeader s.ENG_MODE).emit _⟩
  | shiftHole hf => exact ⟨_, .shiftHole hf, (h.withOutputs _).countEmpty.window_set _⟩
  | storeByte hf hc hl =>
    exact ⟨_, .storeByte hf hc hl, (h.withOutputs _).countByte.store _ le_rfl⟩
  | dropByte hf hc hl hF hd =>
    exact ⟨_, .dropByte hf hc hl ((hframe _ hl).trans hF) hd, (h.byteStored _).dropFrame⟩
  | deliverByte hf hc hl hF hd =>
    exact ⟨_, .deliverByte hf hc hl ((hframe _ hl).trans hF) hd, (h.byteStored _).deliverFrame _⟩
  | abort hf => exact ⟨_, .abort hf, ((h.withOutputs _).countEmpty.raiseWarning _).enterHunt⟩
  | nop => exact ⟨_, .nop, h.withOutputs _⟩
  | start hf => exact ⟨_, .start hf, ((h.withOutputs _).stopReq _).enterHunt.emit _⟩
  | startIgnored hf => exact ⟨_, .startIgnored hf, (h.withOutputs _).raiseWarning _⟩
  | stopRequested hf => exact ⟨_, .stopRequested hf, (h.withOutputs _).stopReq _⟩
  | stopIgnored hf => exact ⟨_, .stopIgnored hf, (h.withOutputs _).raiseWarning _⟩
  | setEng => exact ⟨_, .setEng, (h.withOutputs _).engMode _⟩
  | getReading hv => exact ⟨_, .getReading hv, hreading hv ▸ (h.withOutputs _).respond _⟩
  | getEmpty hv => exact ⟨_, .getEmpty hv, ((h.withOutputs _).raiseWarning _).respond _⟩
  | getStatus => exact ⟨_, .getStatus, hstatus ▸ (h.withOutputs _).respond _⟩
  | clrWarn => exact ⟨_, .clrWarn, (h.withOutputs _).clearWarnings _⟩
  | bufClr hf => exact ⟨_, .bufClr hf, (h.withOutputs _).bufClr⟩
  | bufClrBusy hf => exact ⟨_, .bufClrBusy hf, (h.withOutputs _).raiseFault _⟩
  | bufPush hf hc => exact ⟨_, .bufPush hf hc, (h.withOutputs _).store _ le_rfl⟩
  | bufFull hf hc => exact ⟨_, .bufFull hf hc, (h.withOutputs _).raiseFault _⟩
  | bufPushBusy hf => exact ⟨_, .bufPushBusy hf, (h.withOutputs _).raiseFault _⟩
  | decBusy hd hf => exact ⟨_, .decBusy hd hf, ((h.withOutputs _).respond _).raiseFault _⟩
  | decRefused hd hf hu =>
    exact ⟨_, .decRefused hd hf (hunmet _ hu), ((h.withOutputs _).respond _).raiseFault _⟩
  | decAnswered hd hf hn hF hs =>
    exact ⟨_, .decAnswered hd hf hn (hmem.trans hF) hs,
      (((h.withOutputs _).respond _).checkTrailer _ _ _).respond _⟩

/-! The step. -/

theorem P_eq (h : SameReadable s t) : t.P = s.P := by rw [h.eq_withContents]; rfl

theorem exec {i : Instr} {s' : State} (h : SameReadable s t) (he : exec i s = .next s') :
    ∃ t', Machine.exec i t = .next t' ∧ SameReadable s' t' := by
  obtain ⟨hw, ha⟩ := exec_next_iff.1 he
  obtain ⟨t', ha', h'⟩ := h.answers ha
  exact ⟨t', exec_next_iff.2 ⟨h.P_eq ▸ hw, ha'⟩, h'⟩

theorem execIllegal {s' : State} (h : SameReadable s t) (he : execIllegal s = .next s') :
    ∃ t', Machine.execIllegal t = .next t' ∧ SameReadable s' t' := by
  obtain ⟨hw, rfl⟩ := illegal_next he
  exact ⟨_, hostStep_of_wf (h.P_eq ▸ hw), (h.withOutputs _).raiseFault _⟩

theorem waitStep {s' : State} (h : SameReadable s t) (he : waitStep s = .next s') :
    ∃ t', Machine.waitStep t = .next t' ∧ SameReadable s' t' := by
  obtain ⟨hw, rfl⟩ := waitStep_next he
  exact ⟨_, whenWellFormed_of_wf (h.P_eq ▸ hw), h.withOutputs none⟩

/-- The reset input leaves nothing that is not readable behind (R330). -/
theorem resetStep {s' : State} (h : SameReadable s t) (he : resetStep s = .next s') :
    ∃ t', Machine.resetStep t = .next t' ∧ SameReadable s' t' := by
  obtain ⟨hw, rfl⟩ := resetStep_next he
  refine ⟨_, whenWellFormed_of_wf (h.P_eq ▸ hw), ?_⟩
  obtain ⟨m, S, rfl⟩ := h.exists_contents
  exact ⟨rfl, fun _ _ => rfl, rfl, fun _ => rfl⟩

theorem eventTurn {s' : State} (h : SameReadable s t) (he : eventTurn s = .next s') :
    ∃ t', Machine.eventTurn t = .next t' ∧ SameReadable s' t' := by
  have hw := h.waitStep (s' := s')
  have hx := fun i ws => (h.inputs ws s.commands s.schedule).exec (i := i) (s' := s')
  obtain ⟨m, S, rfl⟩ := h.exists_contents
  obtain ⟨hwait, heq⟩ | ⟨hf, w, ws, hs, heq⟩ := eventTurn_cases s
  · rw [eventTurn_of_waiting (s := s.withContents m S) hwait]
    exact hw (heq ▸ he)
  · rw [eventTurn_of_stream_cons (s := s.withContents m S) hs hf]
    exact hx _ ws (heq ▸ he)

theorem hostTurn {s' : State} (h : SameReadable s t) (he : hostTurn s = .next s') :
    ∃ t', Machine.hostTurn t = .next t' ∧ SameReadable s' t' := by
  have hw := h.waitStep (s' := s')
  have hi := fun ws => h.inputs s.stream ws s.schedule
  obtain ⟨m, S, rfl⟩ := h.exists_contents
  obtain ⟨hc, heq⟩ | ⟨w, ws, hc, ⟨i, hd, heq⟩ | ⟨r, hd, heq⟩⟩ := hostTurn_cases s
  · rw [hostTurn_of_commands_nil (s := s.withContents m S) hc]
    exact hw (heq ▸ he)
  · rw [hostTurn_of_commands_cons (s := s.withContents m S) hc hd]
    exact (hi ws).exec (heq ▸ he)
  · rw [hostTurn_of_illegal_cons (s := s.withContents m S) hc hd]
    exact (hi ws).execIllegal (heq ▸ he)

end SameReadable

/-- Settles O41: the side whose turn it is runs the same in both states. -/
theorem unreadableContentsNeverMatter : Obligations.UnreadableContentsNeverMatter := by
  unfold Obligations.UnreadableContentsNeverMatter
  intro s t s' h he
  have hi := fun ts => h.inputs s.stream s.commands ts
  have hw := h.waitStep (s' := s')
  obtain ⟨m, S, rfl⟩ := h.exists_contents
  obtain ⟨hs, heq⟩ | ⟨ts, hs, heq⟩ | ⟨ts, hs, heq⟩ | ⟨ts, hs, heq⟩ := step_cases s
  · rw [step_of_no_turn (s := s.withContents m S) hs]
    exact hw (heq ▸ he)
  · rw [step_of_event_turn (s := s.withContents m S) hs]
    exact (hi ts).eventTurn (heq ▸ he)
  · rw [step_of_host_turn (s := s.withContents m S) hs]
    exact (hi ts).hostTurn (heq ▸ he)
  · rw [step_of_reset_turn (s := s.withContents m S) hs]
    exact (hi ts).resetStep (heq ▸ he)

/-! ### The host and `WIN`, `ENG_LATCH` -/

/-- What the host sees of a step: its response, its signals, and the registers 0 to 6 after it (R48, R49). -/
def SameToHost (t t' : State) : Prop :=
  t'.response = t.response ∧ t'.signals = t.signals ∧ t'.statusRegs = t.statusRegs

/-- A host command's outcome with another window and another latch. -/
theorem Answers.with_WIN_ENG_LATCH {i : Instr} {s t : State} (ha : Answers s i t) (hi : i.isHost = true)
    (W : Window) (latch : Bool) :
    ∃ t', Answers { s with WIN := W, ENG_LATCH := latch } i t' ∧ SameToHost t t' := by
  cases ha with
  | notEnabled he => simp [Instr.isHost, he] at hi
  | shiftByte | matchByte | shiftHole | storeByte | dropByte | deliverByte | abort => cases hi
  | nop => exact ⟨_, .nop, rfl, rfl, rfl⟩
  | start hf => exact ⟨_, .start hf, rfl, rfl, rfl⟩
  | startIgnored hf => exact ⟨_, .startIgnored hf, rfl, rfl, rfl⟩
  | stopRequested hf => exact ⟨_, .stopRequested hf, rfl, rfl, rfl⟩
  | stopIgnored hf => exact ⟨_, .stopIgnored hf, rfl, rfl, rfl⟩
  | setEng => exact ⟨_, .setEng, rfl, rfl, rfl⟩
  | getReading hv => exact ⟨_, .getReading hv, rfl, rfl, rfl⟩
  | getEmpty hv => exact ⟨_, .getEmpty hv, rfl, rfl, rfl⟩
  | getStatus => exact ⟨_, .getStatus, rfl, rfl, rfl⟩
  | clrWarn => exact ⟨_, .clrWarn, rfl, rfl, rfl⟩
  | bufClr hf => exact ⟨_, .bufClr hf, rfl, rfl, rfl⟩
  | bufClrBusy hf => exact ⟨_, .bufClrBusy hf, rfl, rfl, rfl⟩
  | bufPush hf hc => exact ⟨_, .bufPush hf hc, rfl, rfl, rfl⟩
  | bufFull hf hc => exact ⟨_, .bufFull hf hc, rfl, rfl, rfl⟩
  | bufPushBusy hf => exact ⟨_, .bufPushBusy hf, rfl, rfl, rfl⟩
  | decBusy hd hf => exact ⟨_, .decBusy hd hf, rfl, rfl, rfl⟩
  | decRefused hd hf hu => exact ⟨_, .decRefused hd hf hu, rfl, rfl, rfl⟩
  | decAnswered hd hf hn hF hs =>
    refine ⟨_, .decAnswered hd hf hn hF hs, ?_⟩
    rw [checkTrailer_eq, checkTrailer_eq]
    exact ⟨rfl, rfl, rfl⟩

/-- Settles O42: the outcome stays the same one, and it shows the host nothing of the two elements. -/
theorem hostCannotReadWindowOrLatch : Obligations.HostCannotReadWindowOrLatch := by
  unfold Obligations.HostCannotReadWindowOrLatch
  intro i s t W latch hi he
  obtain ⟨hw, ha⟩ := exec_next_iff.1 he
  obtain ⟨t', ha', hsame⟩ := ha.with_WIN_ENG_LATCH hi W latch
  exact ⟨t', exec_next_iff.2 ⟨hw, ha'⟩, hsame⟩

/-! ### The frame in flight and `ENG_MODE` -/

theorem deliverFrame_with_ENG_MODE (F : List Byte) (s : State) (v : Bool) :
    deliverFrame F { s with ENG_MODE := v } = { deliverFrame F s with ENG_MODE := v } := by
  simp only [deliverFrame, afterPublish_eq, checkTargetType_eq, checkTrailer_eq]
  rfl

theorem countEmpty_with_ENG_MODE (s : State) (v : Bool) :
    countEmpty { s with ENG_MODE := v } = { countEmpty s with ENG_MODE := v } := by
  rw [countEmpty_eq, countEmpty_eq]

/-- An event's outcome in COLLECT with another mode: only the heuristic writes the mode (R183). -/
theorem Answers.with_ENG_MODE {e : Instr} {s t : State} (ha : Answers s e t) (he : e.isEvent = true)
    (hf : s.FSM = .collect) (v : Bool) :
    Answers { s with ENG_MODE := v } e
      { t with ENG_MODE := if .warning .modeDesync ∈ t.signals then true else v } := by
  cases ha with
  | notEnabled _ hf' | shiftByte hf' | matchByte hf' | shiftHole hf' => simp [hf] at hf'
  | storeByte _ hc hl =>
    rw [if_neg (by simp)]
    exact .storeByte hf hc hl
  | dropByte _ hc hl hF hd =>
    rw [if_pos (by simp)]
    exact .dropByte hf hc hl hF hd
  | deliverByte _ hc hl hF hd =>
    rw [if_neg (by simp [mem_signals_deliverFrame]), ← deliverFrame_with_ENG_MODE]
    exact .deliverByte hf hc hl hF hd
  | abort =>
    rw [if_neg (by simp only [mem_signals_abort]; simp)]
    have habort : Answers { s with ENG_MODE := v } .evEmpty _ := .abort hf
    rwa [show withOutputs none { s with ENG_MODE := v } = { withOutputs none s with ENG_MODE := v } from rfl,
      countEmpty_with_ENG_MODE] at habort
  | decBusy hd | decRefused hd | decAnswered hd => simpa [Instr.isHost, he] using hd.isHost
  | _ => cases he

/-- Settles O43: the outcome stays the same one, and `ENG_MODE` keeps its other value unless it is set. -/
theorem frameInFlightKeepsItsMode : Obligations.FrameInFlightKeepsItsMode := by
  unfold Obligations.FrameInFlightKeepsItsMode
  intro e s t v he hf h
  obtain ⟨hw, ha⟩ := exec_next_iff.1 h
  exact exec_next_iff.2 ⟨hw, ha.with_ENG_MODE he hf v⟩

end Sys2Proof.Machine
end

section
/-! PROOFS. What one instruction can do to the slot (spec/10_state.md R43 to R46), to the warning bits and CSUM_CNT
(R40, R41), and to the position (R35): case splits over the outcomes of `Answers`. -/

namespace Sys2Proof.Machine

/-! ### Publications and the slot -/

/-- A publication is a frame delivered in COLLECT by the byte that completes it (R180, R186). -/
theorem Answers.delivered_of_publish {i : Instr} {s t : State} (ha : Answers s i t)
    (hp : .publish ∈ t.signals) :
    ∃ b F, i = .evByte b ∧ s.FSM = .collect ∧ t = deliverFrame F (byteStored b s) := by
  cases ha with
  | deliverByte hf => exact ⟨_, _, rfl, hf, rfl⟩
  | shiftHole => simp only [mem_signals_countEmpty] at hp; simp at hp
  | abort => simp only [mem_signals_abort] at hp; simp at hp
  | decAnswered => simp only [respond_signals, mem_signals_checkTrailer] at hp; simp at hp
  | _ => simp at hp

/-- Nothing but a publication touches the slot (R43). -/
theorem Answers.slot_of_not_publish {i : Instr} {s t : State} (ha : Answers s i t)
    (hp : .publish ∉ t.signals) : t.SLOT = s.SLOT ∧ t.SLOT_VALID = s.SLOT_VALID := by
  cases ha with
  | deliverByte => simp [mem_signals_deliverFrame] at hp
  | _ => simp

/-- Settles O50: a step publishes, and the slot is `deliverFrame`'s, or it leaves the slot alone. -/
theorem slotIsWrittenByPublicationOnly : Obligations.SlotIsWrittenByPublicationOnly := by
  unfold Obligations.SlotIsWrittenByPublicationOnly
  intro i s t h
  have ha := answers_of_exec h
  refine ⟨ha.slot_of_not_publish, fun hp => ?_, fun hv => ?_⟩
  · obtain ⟨b, F, rfl, hf, rfl⟩ := ha.delivered_of_publish hp
    exact ⟨by simp, by simp, ⟨b, rfl⟩, hf⟩
  · by_cases hp : Signal.publish ∈ t.signals
    · obtain ⟨b, F, -, -, rfl⟩ := ha.delivered_of_publish hp
      simp
    · rw [(ha.slot_of_not_publish hp).2, hv]

/-- A frame in flight is latched in the mode that is set, if SET_ENG comes in IDLE only (R46). -/
theorem Answers.latch_eq_mode {i : Instr} {s t : State} (ha : Answers s i t)
    (hlatch : s.FSM = .collect → s.ENG_LATCH = s.ENG_MODE) (hset : s.FSM ≠ .idle → ∀ v, i ≠ .setEng v)
    (hf : t.FSM = .collect) : t.ENG_LATCH = t.ENG_MODE := by
  cases ha with
  | matchByte => rfl
  | setEng =>
    have hidle : s.FSM = .idle := by_contra fun hne => hset hne _ rfl
    exact absurd (hidle.symm.trans hf) (by decide)
  | dropByte | abort | start => exact absurd hf (by simp)
  | deliverByte => exact absurd hf (deliverFrame_FSM_ne_collect _ _)
  | shiftHole | decAnswered => simpa using hlatch (by simpa using hf)
  | _ => exact hlatch hf

/-- Settles O44: GATES_VALID is the latch of the delivered frame, and the latch is the mode. -/
theorem arraysPresentExactlyInEngineeringMode : Obligations.ArraysPresentExactlyInEngineeringMode := by
  unfold Obligations.ArraysPresentExactlyInEngineeringMode
  intro i s t h
  have ha := answers_of_exec h
  refine ⟨fun hp => ?_, fun hlatch hset => ⟨ha.latch_eq_mode hlatch hset, fun hp => ?_⟩⟩
  · obtain ⟨b, F, -, -, rfl⟩ := ha.delivered_of_publish hp
    simp
  · obtain ⟨b, F, -, hf, rfl⟩ := ha.delivered_of_publish hp
    simpa using hlatch hf

/-! ### Sticky warnings and the mismatch counter -/

/-- A register that has gained bits, or none, and lost none. -/
def GainsBits (x y : BitVec 8) : Prop := ∃ w, y = x ||| w

theorem GainsBits.refl (x : BitVec 8) : GainsBits x x := ⟨0, by simp⟩

theorem GainsBits.or (x w : BitVec 8) : GainsBits x (x ||| w) := ⟨w, rfl⟩

theorem GainsBits.trans {x y z : BitVec 8} (hxy : GainsBits x y) (hyz : GainsBits y z) : GainsBits x z := by
  obtain ⟨w, rfl⟩ := hxy
  obtain ⟨w', rfl⟩ := hyz
  exact ⟨w ||| w', BitVec.or_assoc ..⟩

theorem GainsBits.getElem {x y : BitVec 8} (h : GainsBits x y) {n : Fin 8} (hn : x[n] = true) :
    y[n] = true := by
  obtain ⟨w, rfl⟩ := h
  simp_all

theorem gainsBits_countEmpty (s : State) : GainsBits s.WARN (countEmpty s).WARN := by
  rw [countEmpty_WARN]
  split
  · exact .or _ _
  · exact .refl _

theorem gainsBits_checkTrailer (F : List Byte) (L : Nat) (T : Marker) (s : State) :
    GainsBits s.WARN (checkTrailer F L T s).WARN := by
  rw [checkTrailer_WARN]
  split
  · exact .refl _
  · exact .or _ _

theorem gainsBits_checkTargetType (c : Byte) (s : State) : GainsBits s.WARN (checkTargetType c s).WARN := by
  rw [checkTargetType_WARN]
  split
  · exact .or _ _
  · exact .refl _

theorem gainsBits_deliverFrame (F : List Byte) (s : State) : GainsBits s.WARN (deliverFrame F s).WARN := by
  rw [deliverFrame, afterPublish_WARN, publish_WARN]
  exact (gainsBits_checkTrailer _ _ _ _).trans (gainsBits_checkTargetType _ _)

/-- Only CLR_WARN takes bits out of `WARN` (R41, R300). -/
theorem Answers.gainsBits_WARN {i : Instr} {s t : State} (ha : Answers s i t) (hi : ∀ m, i ≠ .clrWarn m) :
    GainsBits s.WARN t.WARN := by
  cases ha with
  | clrWarn => exact absurd rfl (hi _)
  | shiftHole => exact gainsBits_countEmpty (withOutputs none s)
  | abort => exact (gainsBits_countEmpty (withOutputs none s)).trans (.or _ _)
  | @deliverByte b F => exact gainsBits_deliverFrame F (byteStored b s)
  | @decAnswered _ _ _ F => exact gainsBits_checkTrailer F _ _ (respond .noFields (withOutputs (some .unit) s))
  | dropByte | startIgnored | stopIgnored | getEmpty => exact .or _ _
  | _ => exact .refl _

/-- Settles O46: every instruction but CLR_WARN keeps the bits of `WARN`, and CLR_WARN those outside its mask. -/
theorem warningBitsOnlyClrWarnClears : Obligations.WarningBitsOnlyClrWarnClears := by
  unfold Obligations.WarningBitsOnlyClrWarnClears
  intro i s t n h hn
  by_cases hi : ∃ m, i = .clrWarn m
  · obtain ⟨m, rfl⟩ := hi
    obtain ⟨-, rfl⟩ := clrWarn_next h
    cases hm : m[n] with
    | true => exact .inr ⟨m, rfl, hm⟩
    | false => exact .inl (by simp_all)
  · have hne : ∀ m, i ≠ .clrWarn m := fun m heq => hi ⟨m, heq⟩
    exact .inl (((answers_of_exec h).gainsBits_WARN hne).getElem hn)

theorem satInc_eq_ite (W c : Nat) : satInc W c = if c ≠ 2 ^ W - 1 then c + 1 else c := by
  unfold satInc
  split <;> simp_all

/-- The counter goes up, saturating, exactly with the warning (R40, R182, R266). -/
theorem Answers.csumCnt {i : Instr} {s t : State} (ha : Answers s i t) :
    t.CSUM_CNT =
      if .warning .csumMismatch ∈ t.signals then satInc s.P.CNT_W s.CSUM_CNT else s.CSUM_CNT := by
  cases ha with
  | @deliverByte b F =>
    cases hT : trailerOk F s.frameLen s.P.TRL_TLM <;> simp [mem_signals_deliverFrame, hT]
  | @decAnswered i need answer F =>
    cases hT : trailerOk F s.BUF_LEN s.P.TRL_ACK <;> simp [hT]
  | shiftHole => simp only [mem_signals_countEmpty]; simp
  | abort => simp only [mem_signals_abort]; simp
  | _ => simp

/-- Settles O53: `Answers.csumCnt` with the saturating increment written out. -/
theorem csumCntCountsMismatches : Obligations.CsumCntCountsMismatches := by
  unfold Obligations.CsumCntCountsMismatches
  intro i s t h
  rw [(answers_of_exec h).csumCnt, satInc_eq_ite, ite_and]

/-! ### The position -/

/-- While the FSD runs, no host command moves the position (R35). -/
theorem Answers.host_keeps_position {i : Instr} {s t : State} (ha : Answers s i t) (hi : i.isHost = true)
    (hf : s.FSM ≠ .idle) : t.FSM = s.FSM ∧ t.BUF_LEN = s.BUF_LEN := by
  cases ha with
  | start hf' | bufClr hf' | bufPush hf' => exact absurd hf' hf
  | dropByte | deliverByte | abort | matchByte | shiftHole | storeByte => cases hi
  | decAnswered => exact ⟨by simp, by simp⟩
  | _ => exact ⟨rfl, rfl⟩

theorem Answers.position_of_idle {i : Instr} {s t : State} (ha : Answers s i t) (hf : s.FSM = .idle) :
    (t.FSM = .idle ∧ (t.BUF_LEN = s.BUF_LEN ∨ i = .bufClr ∧ t.BUF_LEN = 0 ∨
      (∃ b, i = .bufPush b) ∧ t.BUF_LEN = s.BUF_LEN + 1)) ∨
    (i = .start ∧ t.FSM = .hunt ∧ t.BUF_LEN = 0) := by
  cases ha with
  | matchByte hf' | shiftHole hf' | storeByte hf' | dropByte hf' | deliverByte hf' | abort hf' =>
    exact absurd (hf.symm.trans hf') (by decide)
  | start => exact .inr ⟨rfl, rfl, rfl⟩
  | bufClr => exact .inl ⟨hf, .inr (.inl ⟨rfl, rfl⟩)⟩
  | bufPush => exact .inl ⟨hf, .inr (.inr ⟨⟨_, rfl⟩, rfl⟩)⟩
  | decAnswered => exact .inl ⟨by simpa using hf, .inl (by simp)⟩
  | _ => exact .inl ⟨hf, .inl rfl⟩

theorem Answers.position_of_hunt {i : Instr} {s t : State} (ha : Answers s i t) (hf : s.FSM = .hunt)
    (hl : s.BUF_LEN = 0) :
    (t.FSM = .hunt ∧ t.BUF_LEN = 0) ∨
    (t.FSM = .collect ∧ t.BUF_LEN = 4 ∧
      ∃ b, i = .evByte b ∧ headerMatch s.P (s.WIN.shift (.byte b)) = true) := by
  cases hi : i.isHost with
  | true =>
    obtain ⟨hFSM, hBUF⟩ := ha.host_keeps_position hi (by simp [hf])
    exact .inl ⟨hFSM.trans hf, hBUF.trans hl⟩
  | false =>
    cases ha with
    | notEnabled | shiftByte => exact .inl ⟨hf, hl⟩
    | shiftHole => exact .inl ⟨by simpa using hf, by simpa using hl⟩
    | matchByte _ hm => exact .inr ⟨rfl, rfl, _, rfl, hm⟩
    | storeByte hf' | dropByte hf' | deliverByte hf' | abort hf' =>
      exact absurd (hf.symm.trans hf') (by decide)
    | decBusy hd | decRefused hd | decAnswered hd => simp [hd.isHost] at hi
    | _ => cases hi

theorem Answers.position_of_collect {i : Instr} {s t : State} (ha : Answers s i t) (hf : s.FSM = .collect) :
    (i.isHost = true ∧ t.FSM = .collect ∧ t.BUF_LEN = s.BUF_LEN) ∨
    (i = .evEmpty ∧ t.FSM = .hunt ∧ t.BUF_LEN = 0) ∨
    (∃ b, i = .evByte b) ∧
      (if s.BUF_LEN + 1 < s.P.frameLen s.ENG_LATCH then
        t.FSM = .collect ∧ t.BUF_LEN = s.BUF_LEN + 1
      else t.FSM ≠ .collect ∧ t.BUF_LEN = 0) := by
  rw [← frameLen_eq]
  cases hi : i.isHost with
  | true =>
    obtain ⟨hFSM, hBUF⟩ := ha.host_keeps_position hi (by simp [hf])
    exact .inl ⟨rfl, hFSM.trans hf, hBUF⟩
  | false =>
    right
    cases ha with
    | notEnabled _ hf' | shiftByte hf' | matchByte hf' | shiftHole hf' =>
      exact absurd (hf.symm.trans hf') (by decide)
    | abort => exact .inl ⟨rfl, rfl, rfl⟩
    | storeByte _ _ hl =>
      rw [if_pos hl]
      exact .inr ⟨⟨_, rfl⟩, hf, rfl⟩
    | dropByte _ _ hl =>
      rw [if_neg (Nat.not_lt.2 hl)]
      exact .inr ⟨⟨_, rfl⟩, by simp, rfl⟩
    | deliverByte _ _ hl =>
      rw [if_neg (Nat.not_lt.2 hl)]
      exact .inr ⟨⟨_, rfl⟩, deliverFrame_FSM_ne_collect _ _, by simp⟩
    | decBusy hd | decRefused hd | decAnswered hd => simp [hd.isHost] at hi
    | _ => cases hi

/-- Settles O47: one lemma for each state of the FSM; in HUNT a safe state has BUF_LEN 0. -/
theorem positionMovesOnlyAsListed : Obligations.PositionMovesOnlyAsListed := by
  unfold Obligations.PositionMovesOnlyAsListed
  intro i s t hs h
  have ha := answers_of_exec h
  exact ⟨ha.position_of_idle, fun hf => ha.position_of_hunt hf (hs.hunt hf), ha.position_of_collect⟩

end Sys2Proof.Machine
end

section
/-! PROOFS. The reading of a frame (spec/20_memory.md R73, R81): the byte that completes a frame drops or
delivers it in the same step, a delivered frame's fields are its bytes at their offsets, and GET_DATA answers that
reading. -/

namespace Sys2Proof.Machine

/-! ### Bytes of a sequence -/

theorem getElem?_eq_byteAt {F : List Byte} {i : Nat} (h : i < F.length) : F[i]? = some (byteAt F i) := by
  simp [byteAt, List.getD_eq_getElem?_getD, h]

/-- A slice from a byte inside is that byte and the slice behind it. -/
theorem slice_succ {F : List Byte} {a : Nat} (h : a < F.length) (n : Nat) :
    slice F a (n + 1) = byteAt F a :: slice F (a + 1) n := by
  rw [slice, List.drop_eq_getElem_cons h, List.take_succ_cons]
  simp [byteAt, slice, List.getD_eq_getElem?_getD, h]

/-- The signature is in the frame only if each of its bytes is (R116). -/
theorem engSig_eq_false {P : Params} {F : List Byte} {j : Nat} (hj : j < P.ENG_SIG.length)
    (hne : F[P.ENG_SIG_OFF + j]? ≠ P.ENG_SIG[j]?) : engSig P F = false := by
  refine beq_eq_false_iff_ne.2 fun heq => hne ?_
  rw [← heq, slice, List.getElem?_take_of_lt hj, List.getElem?_drop]

/-! ### The byte that completes a frame -/

/-- The frame read back after the store is the valid bytes and the byte (R171). -/
theorem readList_write_of_completes {s : State} {b : Byte} {F : List Byte} (hc : completes s)
    (hF : frameWith s b = some F) : (s.FB.write s.BUF_LEN b).readList 0 s.frameLen = some F := by
  obtain ⟨G, hG, rfl⟩ := Option.map_eq_some_iff.1 hF
  obtain ⟨-, hlen, hread⟩ := memRead_eq_some.1 hG
  refine Memory.readList_eq_some.2 ⟨by simp [hlen, hc.2], fun i hi => ?_⟩
  rw [List.length_append, List.length_singleton] at hi
  obtain hi | rfl := Nat.lt_succ_iff_lt_or_eq.1 hi
  · rw [Nat.zero_add, Memory.read_write_other _ _ (by omega), List.getElem_append_left hi]
    simpa using hread i hi
  · simp [← hlen]

theorem length_of_frameWith {s : State} {b : Byte} {F : List Byte} (hc : completes s)
    (hF : frameWith s b = some F) : F.length = s.P.frameLen s.ENG_LATCH :=
  (Memory.readList_eq_some.1 (readList_write_of_completes hc hF)).1

/-- The byte that completes a frame completes it in the same step (R171). -/
theorem exec_of_completes {s : State} {b : Byte} {F : List Byte} (h : SafeState s) (hc : completes s)
    (hF : frameWith s b = some F) : exec (.evByte b) s = .next (completeFrame F (byteStored b s)) := by
  obtain ⟨hf, hl⟩ := hc
  have hcap : s.BUF_LEN < s.P.BUF_CAP := by
    have := Params.frameLen_le_bufCap h.params s.ENG_LATCH
    rw [← frameLen_eq] at this
    omega
  rw [exec_of_collectByte h.params hf hcap]
  exact afterStore_of_whole (s := byteStored b s) hl.ge (readList_write_of_completes ⟨hf, hl⟩ hF)

/-- A completed frame without the signature, or collected in engineering mode, is delivered (R180, R183). -/
theorem exec_of_delivers {s : State} {b : Byte} {F : List Byte} (h : SafeState s) (hc : completes s)
    (hF : frameWith s b = some F) (hd : s.ENG_LATCH = true ∨
      ∃ j < s.P.ENG_SIG.length, F[s.P.ENG_SIG_OFF + j]? ≠ s.P.ENG_SIG[j]?) :
    exec (.evByte b) s = .next (deliverFrame F (byteStored b s)) := by
  rw [exec_of_completes h hc hF]
  obtain ⟨hlatch, hsig, -⟩ | ⟨-, heq⟩ := completeFrame_cases F (byteStored b s)
  · obtain hd | ⟨j, hj, hne⟩ := hd
    · exact absurd (hd.symm.trans hlatch) (by decide)
    · exact absurd ((engSig_eq_false hj hne).symm.trans hsig) (by decide)
  · rw [heq]

/-- A delivered frame's reading is published (R186). -/
theorem deliverFrame_SLOT (F : List Byte) (s : State) :
    (deliverFrame F s).SLOT = s.SLOT.publish (extract s.P s.ENG_LATCH F) := by simp [deliverFrame]

/-- A distance is the two bytes at its offset, the lower one the less significant (R73). -/
theorem halfAt_of_lt {F : List Byte} {a : Nat} (h : a + 1 < F.length) :
    ∃ lo hi, F[a]? = some lo ∧ F[a + 1]? = some hi ∧ (halfAt F a).toNat = lo.toNat + 256 * hi.toNat :=
  ⟨_, _, getElem?_eq_byteAt (Nat.lt_of_succ_lt h), getElem?_eq_byteAt h, le16_toNat _ _⟩

/-- Settles O20: the frame is delivered, and every field lies in it. -/
theorem publishedFieldsAreTheFrames : Obligations.PublishedFieldsAreTheFrames := by
  unfold Obligations.PublishedFieldsAreTheFrames
  intro b s F h hc hF hd
  obtain ⟨hTT, hMD, hME, hSD, hSE, hDD, -⟩ := Params.fields_in_frame h.params s.ENG_LATCH
  rw [← length_of_frameWith hc hF] at hTT hMD hME hSD hSE hDD
  refine ⟨_, exec_of_delivers h hc hF hd, deliverFrame_SLOT_VALID _ _, ?_⟩
  rw [deliverFrame_SLOT]
  exact ⟨getElem?_eq_byteAt hTT, getElem?_eq_byteAt hME, getElem?_eq_byteAt hSE, getElem?_eq_byteAt hDD,
    halfAt_of_lt hMD, halfAt_of_lt hSD⟩

/-! ### GET_DATA after a publication -/

/-- GET_DATA on a filled slot answers its reading and, repeated, changes nothing (R81, R224). -/
theorem getData_of_valid {s t : State} (hv : s.SLOT_VALID = true) (h : exec .getData s = .next t) :
    t.response = some (.reading s.SLOT.reading) ∧ exec .getData t = .next t := by
  obtain ⟨hw, ⟨-, rfl⟩ | ⟨hv', -⟩⟩ := getData_next h
  · exact ⟨rfl, exec_next_iff.2 ⟨hw, .getReading hv⟩⟩
  · exact absurd (hv.symm.trans hv') (by decide)

/-- Settles O51: a step that completes a frame and publishes has delivered it, and the slot reads as that frame. -/
theorem getDataDeliversTheLatestFrame : Obligations.GetDataDeliversTheLatestFrame := by
  unfold Obligations.GetDataDeliversTheLatestFrame
  intro b s t u F h hc hF ht hp hu
  rw [exec_of_completes h hc hF] at ht
  cases ht
  obtain ⟨-, -, heq⟩ | ⟨-, heq⟩ := completeFrame_cases F (byteStored b s) <;> rw [heq] at hp hu
  · simp at hp
  · simpa [deliverFrame_SLOT] using getData_of_valid (deliverFrame_SLOT_VALID _ _) hu

end Sys2Proof.Machine
end

section
/-! PROOFS. The fields of an acknowledgment (spec/20_memory.md R74, R75): where the precondition holds both decode
commands answer from slices of the valid bytes, and the footer decides the warning only. -/

namespace Sys2Proof.Machine

/-! ### Reads of the valid bytes -/

/-- A read inside the valid bytes is a slice of them (R72). -/
theorem memRead_eq_slice {s : State} {F : List Byte} (hF : s.memRead 0 s.BUF_LEN = some F) {a n : Nat}
    (ha : a + n ≤ s.BUF_LEN) : s.memRead a n = some (slice F a n) := by
  obtain ⟨-, hlen, hread⟩ := memRead_eq_some.1 hF
  have hslice : (slice F a n).length = n := length_slice (hlen ▸ ha)
  refine memRead_eq_some.2 ⟨ha, hslice, fun i hi => ?_⟩
  have hlt : a + i < F.length := by omega
  have hbyte := hread (a + i) hlt
  rw [Nat.zero_add, ← List.getElem?_eq_getElem hlt, getElem?_eq_byteAt hlt] at hbyte
  rw [getElem_slice hi, hbyte]

/-- A marker compared with a slice of the valid bytes is compared with what `MemRead` reads there (R264, R266). -/
theorem slice_beq_marker_iff {s : State} {F : List Byte} (hF : s.memRead 0 s.BUF_LEN = some F) {a : Nat}
    (ha : a + 4 ≤ s.BUF_LEN) (M : Marker) :
    (slice F a 4 == M.toList) = true ↔ s.memRead a 4 = some M.toList := by
  rw [memRead_eq_slice hF ha, beq_iff_eq, Option.some.injEq]

theorem SafeState.memRead_valid {s : State} (h : SafeState s) : ∃ F, s.memRead 0 s.BUF_LEN = some F :=
  Option.isSome_iff_exists.1 (memRead_isSome (by simp) h.filled)

/-! ### A decode command with its precondition -/

/-- A decode command whose precondition holds answers whatever the footer is (R266). -/
theorem exec_of_decodable {i : Instr} {need : Nat} {answer : List Byte → Response} {s : State} {F : List Byte}
    (hd : Decodes s.P i need answer) (hw : s.P.wf = true) (hf : s.FSM = .idle) (hl : 8 ≤ s.BUF_LEN)
    (hhdr : s.memRead 0 4 = some s.P.HDR_ACK.toList) (hneed : need ≤ s.BUF_LEN - 4)
    (hF : s.memRead 0 s.BUF_LEN = some F) :
    (s.memRead (s.BUF_LEN - 4) 4 = some s.P.TRL_ACK.toList →
      exec i s = .next { s with signals := [], response := some (answer F) }) ∧
    (s.memRead (s.BUF_LEN - 4) 4 ≠ some s.P.TRL_ACK.toList →
      exec i s = .next { s with
        CSUM_CNT := if s.CSUM_CNT = 2 ^ s.P.CNT_W - 1 then s.CSUM_CNT else s.CSUM_CNT + 1
        WARN := s.WARN ||| 0x01
        signals := [.warning .csumMismatch]
        response := some (answer F) }) := by
  have hfits : decFits need s = true := by simp [decFits, hl, hneed]
  have hstarts : startsWith F s.P.HDR_ACK = true := (slice_beq_marker_iff hF (by omega) _).2 hhdr
  have hfooter : trailerOk F s.BUF_LEN s.P.TRL_ACK = true ↔
      s.memRead (s.BUF_LEN - 4) 4 = some s.P.TRL_ACK.toList := slice_beq_marker_iff hF (by omega) _
  rw [exec_of_answers hw (.decAnswered hd hf hfits hF hstarts), checkTrailer]
  constructor <;> intro hT
  · rw [if_pos (hfooter.2 hT)]
    rfl
  · rw [if_neg (mt hfooter.1 hT)]
    rfl

/-- Settles O11: the two fields are slices of the valid bytes. -/
theorem decFwDeliversFirmwareFields : Obligations.DecFwDeliversFirmwareFields := by
  unfold Obligations.DecFwDeliversFirmwareFields
  intro s h hf hl hhdr hneed
  obtain ⟨F, hF⟩ := h.memRead_valid
  have hlen := (memRead_eq_some.1 hF).2.1
  have hmaj : slice F s.P.OFF_FW_MAJ 2 =
      [byteAt F s.P.OFF_FW_MAJ, byteAt F (s.P.OFF_FW_MAJ + 1)] := by
    rw [slice_succ (by omega), slice_succ (by omega)]
    rfl
  have hexec := exec_of_decodable (.fw (P := s.P)) h.params hf hl hhdr hneed hF
  exact ⟨_, _, _, hmaj ▸ memRead_eq_slice hF (by omega), memRead_eq_slice hF (by omega), hexec⟩

/-- Settles O12: the field is a slice of 6 valid bytes. -/
theorem decMacDeliversAddressInWireOrder : Obligations.DecMacDeliversAddressInWireOrder := by
  unfold Obligations.DecMacDeliversAddressInWireOrder
  intro s h hf hl hhdr hneed
  obtain ⟨F, hF⟩ := h.memRead_valid
  have hlen := (memRead_eq_some.1 hF).2.1
  have hmac : slice F s.P.OFF_MAC 6 =
      [byteAt F s.P.OFF_MAC, byteAt F (s.P.OFF_MAC + 1), byteAt F (s.P.OFF_MAC + 2),
        byteAt F (s.P.OFF_MAC + 3), byteAt F (s.P.OFF_MAC + 4), byteAt F (s.P.OFF_MAC + 5)] := by
    iterate 6 rw [slice_succ (by omega)]
    rfl
  have hexec := exec_of_decodable (.mac (P := s.P)) h.params hf hl hhdr hneed hF
  exact ⟨_, _, _, _, _, _, hmac ▸ memRead_eq_slice hF (by omega), hexec⟩

end Sys2Proof.Machine
end

section
/-! PROOFS. The frame buffer and the inputs (spec/20_memory.md): an instruction stores to `FB` at the addresses R71
gives it only, no step writes the parameter record (R89(c)), and a step takes from the queues what its turn allows
(R86). -/

namespace Sys2Proof.Machine

@[simp] theorem deliverFrame_P (F : List Byte) (s : State) : (deliverFrame F s).P = s.P := by
  simp [deliverFrame]

@[simp] theorem deliverFrame_FB (F : List Byte) (s : State) : (deliverFrame F s).FB = s.FB := by
  simp [deliverFrame]

@[simp] theorem deliverFrame_stream (F : List Byte) (s : State) : (deliverFrame F s).stream = s.stream := by
  simp [deliverFrame]

@[simp] theorem deliverFrame_commands (F : List Byte) (s : State) :
    (deliverFrame F s).commands = s.commands := by simp [deliverFrame]

@[simp] theorem deliverFrame_schedule (F : List Byte) (s : State) :
    (deliverFrame F s).schedule = s.schedule := by simp [deliverFrame]

@[simp] theorem byteStored_stream (b : Byte) (s : State) : (byteStored b s).stream = s.stream := rfl
@[simp] theorem byteStored_commands (b : Byte) (s : State) : (byteStored b s).commands = s.commands := rfl
@[simp] theorem byteStored_schedule (b : Byte) (s : State) : (byteStored b s).schedule = s.schedule := rfl

/-! ### Stores -/

theorem storedAddresses_of_collect {s : State} (hf : s.FSM = .collect) (b : Byte) :
    storedAddresses (.evByte b) s = [s.BUF_LEN] := by simp [storedAddresses, hf]

theorem storedAddresses_of_match {s : State} {b : Byte} (hf : s.FSM = .hunt)
    (hm : headerMatch s.P (s.WIN.shift (.byte b)) = true) :
    storedAddresses (.evByte b) s = [0, 1, 2, 3] := by simp [storedAddresses, hf, hm]

theorem storedAddresses_of_push {s : State} (hf : s.FSM = .idle) (hc : s.BUF_LEN < s.P.BUF_CAP) (b : Byte) :
    storedAddresses (.bufPush b) s = [s.BUF_LEN] := by simp [storedAddresses, hf, Nat.ne_of_lt hc]

/-- An address no store computes reads as before (R71). -/
theorem Answers.read_FB {i : Instr} {s t : State} {a : Nat} (ha : Answers s i t)
    (hn : a ∉ storedAddresses i s) : t.FB.read a = s.FB.read a := by
  cases ha with
  | matchByte hf hm =>
    rw [storedAddresses_of_match hf hm] at hn
    have ha4 : 4 ≤ a := by
      simp only [List.mem_cons, List.not_mem_nil, or_false, not_or] at hn
      omega
    exact Memory.read_writeList_other (.inr (by simpa using ha4))
  | storeByte hf | dropByte hf | deliverByte hf =>
    rw [storedAddresses_of_collect hf, List.mem_singleton] at hn
    simpa using Memory.read_write_other _ _ hn
  | bufPush hf hc =>
    rw [storedAddresses_of_push hf hc, List.mem_singleton] at hn
    exact Memory.read_write_other _ _ hn
  | _ => simp

/-- Settles O56: the outcomes that store are the header match, the three of a COLLECT byte and an accepted
BUF_PUSH. -/
theorem storesOnlyAtTheFillIndex : Obligations.StoresOnlyAtTheFillIndex := by
  unfold Obligations.StoresOnlyAtTheFillIndex
  exact fun i s t a h hn => (answers_of_exec h).read_FB hn

/-! ### Queues -/

/-- The parameter record, both queues and the schedule are the same in two states. -/
def SameInputs (s t : State) : Prop :=
  t.P = s.P ∧ t.schedule = s.schedule ∧ t.stream = s.stream ∧ t.commands = s.commands

theorem sameInputs_waitStep {s t : State} (h : waitStep s = .next t) : SameInputs s t := by
  obtain ⟨-, rfl⟩ := waitStep_next h
  exact ⟨rfl, rfl, rfl, rfl⟩

theorem sameInputs_execIllegal {s t : State} (h : execIllegal s = .next t) : SameInputs s t := by
  obtain ⟨-, rfl⟩ := illegal_next h
  exact ⟨rfl, rfl, rfl, rfl⟩

theorem sameInputs_resetStep {s t : State} (h : resetStep s = .next t) : SameInputs s t := by
  obtain ⟨-, rfl⟩ := resetStep_next h
  exact ⟨rfl, rfl, rfl, rfl⟩

/-- No instruction writes the parameter record or takes an input: that is done by the turn (R86, R89(c)). -/
theorem sameInputs_exec {i : Instr} {s t : State} (h : exec i s = .next t) : SameInputs s t := by
  cases answers_of_exec h with
  | shiftHole | abort | deliverByte | decAnswered => simp [SameInputs]
  | _ => exact ⟨rfl, rfl, rfl, rfl⟩

/-- The stream's turn takes the head of the stream where events are enabled (R12, R149). -/
theorem sameInputs_eventTurn {s t : State} (h : eventTurn s = .next t) :
    SameInputs { s with stream := if s.FSM ≠ .idle then s.stream.tail else s.stream } t := by
  obtain ⟨hwait, heq⟩ | ⟨hf, w, ws, hs, heq⟩ := eventTurn_cases s
  · have hsame := sameInputs_waitStep (heq ▸ h)
    have hstream : (if s.FSM ≠ .idle then s.stream.tail else s.stream) = s.stream := by
      obtain hs | hf := hwait
      · simp [hs]
      · simp [hf]
    rwa [hstream]
  · rw [if_pos hf, hs]
    exact sameInputs_exec (heq ▸ h)

/-- The host's turn takes the head of the commands (R86(b), R228). -/
theorem sameInputs_hostTurn {s t : State} (h : hostTurn s = .next t) :
    SameInputs { s with commands := s.commands.tail } t := by
  obtain ⟨hc, heq⟩ | ⟨w, ws, hc, ⟨i, -, heq⟩ | ⟨r, -, heq⟩⟩ := hostTurn_cases s
  · have hsame := sameInputs_waitStep (heq ▸ h)
    rwa [hc, List.tail_nil, ← hc]
  · rw [hc]
    exact sameInputs_exec (heq ▸ h)
  · rw [hc]
    exact sameInputs_execIllegal (heq ▸ h)

/-- Settles O57: the schedule loses its head, and the side whose turn it is takes what its turn lets it. -/
theorem stepTakesAtMostTheHeads : Obligations.StepTakesAtMostTheHeads := by
  unfold Obligations.StepTakesAtMostTheHeads
  intro s t h
  obtain ⟨hs, heq⟩ | ⟨ts, hs, heq⟩ | ⟨ts, hs, heq⟩ | ⟨ts, hs, heq⟩ := step_cases s
  · simpa [hs, SameInputs] using sameInputs_waitStep (s := s) (heq ▸ h)
  · simpa [hs, SameInputs] using sameInputs_eventTurn (heq ▸ h)
  · simpa [hs, SameInputs] using sameInputs_hostTurn (heq ▸ h)
  · simpa [hs, SameInputs] using sameInputs_resetStep (heq ▸ h)

end Sys2Proof.Machine
end

section
/-! PROOFS. The encodings (spec/30_encoding.md R101 to R106): a port word is its two fields, the command decoder has
one equation per class of OP, and a command word is the encoding of what it decodes to or is rejected for its
fields. -/

namespace Sys2Proof

/-! ### The fields of a word (R101, R104) -/

@[simp] theorem E_eventWord (e : BitVec 1) (d : Byte) : EventWord.E (eventWord e d) = e :=
  BitVec.extractLsb'_append_eq_left

@[simp] theorem D_eventWord (e : BitVec 1) (d : Byte) : EventWord.D (eventWord e d) = d :=
  BitVec.extractLsb'_append_eq_right

@[simp] theorem OP_commandWord (op : BitVec 4) (arg : Byte) : CommandWord.OP (commandWord op arg) = op :=
  BitVec.extractLsb'_append_eq_left

@[simp] theorem ARG_commandWord (op : BitVec 4) (arg : Byte) : CommandWord.ARG (commandWord op arg) = arg :=
  BitVec.extractLsb'_append_eq_right

theorem eventWord_E_D (w : EventWord) : eventWord (EventWord.E w) (EventWord.D w) = w :=
  BitVec.extractLsb'_append_extractLsb' (w := 1) (len := 8)

theorem commandWord_OP_ARG (w : CommandWord) : commandWord (CommandWord.OP w) (CommandWord.ARG w) = w :=
  BitVec.extractLsb'_append_extractLsb' (w := 4) (len := 8)

/-- Every command word is made of an `OP` and an `ARG`. -/
theorem exists_eq_commandWord (w : CommandWord) : ∃ op arg, w = commandWord op arg :=
  ⟨_, _, (commandWord_OP_ARG w).symm⟩

/-! ### The decoder by classes of `OP` (R105) -/

/-- The commands without an operand, each with its `OP`. -/
def operandless : List (BitVec 4 × Instr) :=
  [(0x0, .nop), (0x1, .start), (0x2, .stop), (0x4, .getData), (0x5, .getStatus), (0x7, .bufClr), (0x9, .decFw),
    (0xA, .decMac)]

theorem OP_cases : ∀ op : BitVec 4,
    op ∈ operandless.map Prod.fst ∨ op = 0x3 ∨ op = 0x6 ∨ op = 0x8 ∨ 0xB ≤ op.toNat := by decide

theorem decodeCommand_of_operandless {op : BitVec 4} {i : Instr} (h : (op, i) ∈ operandless) (arg : Byte) :
    decodeCommand (commandWord op arg) = noOperand arg i := by
  simp only [operandless, List.mem_cons, Prod.mk.injEq, List.not_mem_nil, or_false] at h
  rcases h with ⟨rfl, rfl⟩ | ⟨rfl, rfl⟩ | ⟨rfl, rfl⟩ | ⟨rfl, rfl⟩ | ⟨rfl, rfl⟩ | ⟨rfl, rfl⟩ | ⟨rfl, rfl⟩ |
    ⟨rfl, rfl⟩ <;> simp [decodeCommand]

theorem decodeCommand_setEng (arg : Byte) : decodeCommand (commandWord 0x3 arg) = setEngOperand arg := by
  simp [decodeCommand]

theorem decodeCommand_clrWarn (arg : Byte) : decodeCommand (commandWord 0x6 arg) = .ok (.clrWarn arg) := by
  simp [decodeCommand]

theorem decodeCommand_bufPush (arg : Byte) : decodeCommand (commandWord 0x8 arg) = .ok (.bufPush arg) := by
  simp [decodeCommand]

theorem decodeCommand_reserved {op : BitVec 4} (h : 0xB ≤ op.toNat) (arg : Byte) :
    decodeCommand (commandWord op arg) = .error .reservedOp := by
  simp only [decodeCommand, OP_commandWord, ARG_commandWord]
  split
  case h_12 => rfl
  all_goals omega

theorem noOperand_zero (i : Instr) : noOperand 0 i = .ok i := rfl

theorem noOperand_of_ne_zero {arg : Byte} (h : arg ≠ 0) (i : Instr) : noOperand arg i = .error .strayArg :=
  if_neg h

theorem setEngOperand_bit (v : Bool) : setEngOperand (if v then 1 else 0) = .ok (.setEng v) := by
  cases v <;> rfl

theorem setEngOperand_of_ne_zero {arg : Byte} (h : arg.extractLsb' 1 7 ≠ 0) :
    setEngOperand arg = .error .setEngArg := if_neg h

/-- SET_ENG's legal operands are one bit (R105). -/
theorem exists_bit_of_high_bits_zero : ∀ {arg : Byte}, arg.extractLsb' 1 7 = 0 →
    ∃ v : Bool, arg = if v then 1 else 0 := by decide

/-! ### Decoding and encoding -/

theorem encode_of_operandless : ∀ x ∈ operandless, encode x.2 = .command (commandWord x.1 0) := by decide

theorem decodeCommand_of_encode {i : Instr} {w : CommandWord} (h : encode i = .command w) :
    decodeCommand w = .ok i := by
  cases i with
  | evByte | evEmpty => cases h
  | setEng v =>
    cases h
    rw [decodeCommand_setEng, setEngOperand_bit]
  | clrWarn m =>
    cases h
    exact decodeCommand_clrWarn m
  | bufPush b =>
    cases h
    exact decodeCommand_bufPush b
  | nop | start | stop | getData | getStatus | bufClr | decFw | decMac =>
    cases h
    exact decodeCommand_of_operandless (by decide) 0

/-- The class of illegal words that a word's fields put it in (R106). -/
def IllegalFields (op : BitVec 4) (arg : Byte) : IllegalWord → Prop
  | .reservedOp => 0xB ≤ op.toNat
  | .strayArg => op ∈ operandless.map Prod.fst ∧ arg ≠ 0
  | .setEngArg => op = 0x3 ∧ arg.extractLsb' 1 7 ≠ 0

/-- A command word is the encoding of what it decodes to, or it is rejected for its fields. -/
theorem decodeCommand_cases (w : CommandWord) :
    (∃ i, decodeCommand w = .ok i ∧ encode i = .command w) ∨
      ∃ r, decodeCommand w = .error r ∧ IllegalFields (CommandWord.OP w) (CommandWord.ARG w) r := by
  obtain ⟨op, arg, rfl⟩ := exists_eq_commandWord w
  rw [OP_commandWord, ARG_commandWord]
  obtain hop | rfl | rfl | rfl | hop := OP_cases op
  · obtain ⟨⟨op, i⟩, hi, rfl⟩ := List.mem_map.1 hop
    rw [decodeCommand_of_operandless hi]
    by_cases harg : arg = 0
    · subst harg
      exact .inl ⟨i, noOperand_zero i, encode_of_operandless _ hi⟩
    · exact .inr ⟨.strayArg, noOperand_of_ne_zero harg i, hop, harg⟩
  · rw [decodeCommand_setEng]
    by_cases harg : arg.extractLsb' 1 7 = 0
    · obtain ⟨v, rfl⟩ := exists_bit_of_high_bits_zero harg
      exact .inl ⟨.setEng v, setEngOperand_bit v, rfl⟩
    · exact .inr ⟨.setEngArg, setEngOperand_of_ne_zero harg, rfl, harg⟩
  · exact .inl ⟨.clrWarn arg, decodeCommand_clrWarn arg, rfl⟩
  · exact .inl ⟨.bufPush arg, decodeCommand_bufPush arg, rfl⟩
  · exact .inr ⟨.reservedOp, decodeCommand_reserved hop arg, hop⟩

theorem encode_of_decodeCommand {i : Instr} {w : CommandWord} (h : decodeCommand w = .ok i) :
    encode i = .command w := by
  obtain ⟨j, hj, hw⟩ | ⟨r, hr, -⟩ := decodeCommand_cases w
  · cases hj.symm.trans h
    exact hw
  · cases hr.symm.trans h

theorem decode_encode (i : Instr) : decode (encode i) = .ok i := by
  cases h : encode i with
  | command w => exact decodeCommand_of_encode h
  | event w =>
    cases i with
    | evByte b =>
      cases h
      simp [decode, decodeEvent]
    | evEmpty =>
      cases h
      rfl
    | _ => cases h

/-- The one event word that is not an encoding is EV_EMPTY with `D` not 0 (R103). -/
theorem encode_decodeEvent {w : EventWord} (h : EventWord.E w = 1 → EventWord.D w = 0) :
    encode (decodeEvent w) = .event w := by
  have hw := eventWord_E_D w
  unfold decodeEvent
  split
  · next hE => rw [encode, ← hw, hE, h hE]
  · next hE =>
    have hE0 : EventWord.E w = 0 := (BitVec.eq_zero_or_eq_one _).resolve_right hE
    rw [encode, ← hE0, hw]

/-- Settles O30: the decoder has the encoder as its inverse on each port. -/
theorem decodeAndEncodeAgree : Obligations.DecodeAndEncodeAgree := by
  unfold Obligations.DecodeAndEncodeAgree
  refine ⟨decode_encode, fun w i => encode_of_decodeCommand, fun w hw => encode_decodeEvent fun hE => ?_⟩
  have hbit : w[8] = true := by
    simpa [EventWord.E] using congrArg (·[0]) hE
  rw [hw hbit]
  rfl

/-- Settles O27: closed words, decoded by evaluation. -/
theorem writtenOutWordsDecode : Obligations.WrittenOutWordsDecode := by
  unfold Obligations.WrittenOutWordsDecode
  decide

end Sys2Proof
end

section
/-! PROOFS. The command decoder against the tables of spec/30_encoding.md: the match and mask columns (R105) and the
three classes of illegal word with the number of legal ones (R106). -/

namespace Sys2Proof

/-! ### The match and mask table (R105) -/

/-- Every mask covers `OP`, so a word that a row selects has the row's `OP`. -/
theorem mask_covers_OP : ∀ r ∈ commandRows, r.mask &&& 0xF00 = 0xF00 := by decide

theorem eq_of_same_OP : ∀ r ∈ commandRows, ∀ q ∈ commandRows,
    r.pattern &&& 0xF00 = q.pattern &&& 0xF00 → r = q := by decide

theorem eq_of_same_mnemonic : ∀ r ∈ commandRows, ∀ q ∈ commandRows, r.mnemonic = q.mnemonic → r = q := by
  decide

theorem OP_bits_of_selects {w : CommandWord} {r : CommandRow} (hr : r ∈ commandRows)
    (h : w &&& r.mask = r.pattern) : w &&& 0xF00 = r.pattern &&& 0xF00 := by
  rw [← h, BitVec.and_assoc, mask_covers_OP r hr]

/-- The encoding of a command selects a row of its mnemonic. -/
theorem opcode_statement (i : Instr) : Laws.Opcode.Statement i := by
  cases i with
  | evByte b => exact Laws.Opcode.evByte b
  | evEmpty => exact Laws.Opcode.evEmpty
  | nop => exact Laws.Opcode.nop
  | start => exact Laws.Opcode.start
  | stop => exact Laws.Opcode.stop
  | setEng v => exact Laws.Opcode.setEng v
  | getData => exact Laws.Opcode.getData
  | getStatus => exact Laws.Opcode.getStatus
  | clrWarn m => exact Laws.Opcode.clrWarn m
  | bufClr => exact Laws.Opcode.bufClr
  | bufPush b => exact Laws.Opcode.bufPush b
  | decFw => exact Laws.Opcode.decFw
  | decMac => exact Laws.Opcode.decMac

theorem selects_of_decodeCommand {w : CommandWord} {i : Instr} {r : CommandRow} (hr : r ∈ commandRows)
    (h : decodeCommand w = .ok i) (hm : i.mnemonic = r.mnemonic) : w &&& r.mask = r.pattern := by
  have hrow := opcode_statement i
  rw [Laws.Opcode.Statement, encode_of_decodeCommand h] at hrow
  obtain ⟨-, hrow⟩ := hrow
  have hmem : i.mnemonic ∈ (commandRows.filter (·.selects w)).map (·.mnemonic) :=
    hrow ▸ List.mem_singleton_self _
  obtain ⟨q, hq, hqm⟩ := List.mem_map.1 hmem
  obtain ⟨hq, hsel⟩ := List.mem_filter.1 hq
  obtain rfl := eq_of_same_mnemonic q hq r hr (hqm.trans hm)
  exact of_decide_eq_true hsel

/-- What a row's mask leaves open: nothing, the operand bit of SET_ENG, or the whole `ARG`. -/
theorem row_cases : ∀ r ∈ commandRows,
    (∃ x ∈ operandless, r = ⟨x.2.mnemonic, commandWord x.1 0, commandWord 0xF 0xFF⟩) ∨
      r = ⟨.SET_ENG, commandWord 0x3 0, commandWord 0xF 0xFE⟩ ∨
      r = ⟨.CLR_WARN, commandWord 0x6 0, commandWord 0xF 0⟩ ∨
      r = ⟨.BUF_PUSH, commandWord 0x8 0, commandWord 0xF 0⟩ := by decide

theorem commandWord_inj {op o : BitVec 4} {arg p : Byte} :
    commandWord op arg = commandWord o p ↔ op = o ∧ arg = p := by
  constructor
  · intro h
    exact ⟨by simpa using congrArg CommandWord.OP h, by simpa using congrArg CommandWord.ARG h⟩
  · rintro ⟨rfl, rfl⟩
    rfl

/-- A mask that covers `OP` masks `ARG` alone. -/
theorem commandWord_and_mask (op : BitVec 4) (arg m : Byte) :
    commandWord op arg &&& commandWord 0xF m = commandWord op (arg &&& m) := by
  have hop : op &&& 0xF = op := BitVec.and_allOnes
  rw [commandWord, commandWord, BitVec.and_append, hop, commandWord]

theorem high_bits_zero_of_and : ∀ {arg : Byte}, arg &&& 0xFE = 0 → arg.extractLsb' 1 7 = 0 := by decide

theorem decodeCommand_of_selects {w : CommandWord} {r : CommandRow} (hr : r ∈ commandRows)
    (h : w &&& r.mask = r.pattern) : ∃ i, decodeCommand w = .ok i ∧ i.mnemonic = r.mnemonic := by
  obtain ⟨op, arg, rfl⟩ := exists_eq_commandWord w
  obtain ⟨⟨o, i⟩, hx, rfl⟩ | rfl | rfl | rfl := row_cases r hr <;>
    obtain ⟨rfl, harg⟩ := commandWord_inj.1 ((commandWord_and_mask ..).symm.trans h)
  · obtain rfl : arg = 0 := BitVec.and_allOnes.symm.trans harg
    exact ⟨i, decodeCommand_of_operandless hx 0, rfl⟩
  · obtain ⟨v, rfl⟩ := exists_bit_of_high_bits_zero (high_bits_zero_of_and harg)
    exact ⟨.setEng v, (decodeCommand_setEng _).trans (setEngOperand_bit v), rfl⟩
  · exact ⟨.clrWarn arg, decodeCommand_clrWarn arg, rfl⟩
  · exact ⟨.bufPush arg, decodeCommand_bufPush arg, rfl⟩

/-- Settles O28: a selected word's fields are those of its row's encodings, and an encoding selects its row. -/
theorem decoderFollowsTheOpcodeMap : Obligations.DecoderFollowsTheOpcodeMap := by
  unfold Obligations.DecoderFollowsTheOpcodeMap
  constructor
  · intro w r hr
    exact ⟨decodeCommand_of_selects hr, fun ⟨i, h, hm⟩ => selects_of_decodeCommand hr h hm⟩
  · intro w r q hr hq hwr hwq
    exact eq_of_same_OP r hr q hq ((OP_bits_of_selects hr hwr).symm.trans (OP_bits_of_selects hq hwq))

/-! ### The illegal words (R106) -/

theorem decodeCommand_of_illegalFields {op : BitVec 4} {arg : Byte} {r : IllegalWord}
    (h : IllegalFields op arg r) : decodeCommand (commandWord op arg) = .error r := by
  cases r with
  | reservedOp => exact decodeCommand_reserved h arg
  | strayArg =>
    obtain ⟨hop, harg⟩ := h
    obtain ⟨⟨op, i⟩, hi, rfl⟩ := List.mem_map.1 hop
    rw [decodeCommand_of_operandless hi, noOperand_of_ne_zero harg]
  | setEngArg =>
    obtain ⟨rfl, harg⟩ := h
    rw [decodeCommand_setEng, setEngOperand_of_ne_zero harg]

theorem illegalFields_of_decodeCommand {w : CommandWord} {r : IllegalWord} (h : decodeCommand w = .error r) :
    IllegalFields (CommandWord.OP w) (CommandWord.ARG w) r := by
  obtain ⟨i, hi, -⟩ | ⟨q, hq, hfields⟩ := decodeCommand_cases w
  · cases hi.symm.trans h
  · cases hq.symm.trans h
    exact hfields

theorem decodeCommand_eq_error_iff {w : CommandWord} {r : IllegalWord} :
    decodeCommand w = .error r ↔ IllegalFields (CommandWord.OP w) (CommandWord.ARG w) r := by
  refine ⟨illegalFields_of_decodeCommand, fun h => ?_⟩
  rw [← commandWord_OP_ARG w]
  exact decodeCommand_of_illegalFields h

theorem mem_operandless_iff : ∀ op : BitVec 4,
    op ∈ operandless.map Prod.fst ↔ op.toNat ∈ [0x0, 0x1, 0x2, 0x4, 0x5, 0x7, 0x9, 0xA] := by decide

theorem ARG_high_bits (w : CommandWord) : (CommandWord.ARG w).extractLsb' 1 7 = w.extractLsb' 1 7 := by
  rw [← commandWord_OP_ARG w, ARG_commandWord, commandWord, BitVec.extractLsb'_append_eq_of_add_le (by decide)]

/-! ### Counting the legal words -/

/-- How many values of `ARG` are legal with an `OP`. -/
def legalArgs (op : BitVec 4) : Nat :=
  if op = 0x3 then 2 else if op = 0x6 ∨ op = 0x8 then 256 else if 0xB ≤ op.toNat then 0 else 1

theorem legalArgs_operandless : ∀ op ∈ operandless.map Prod.fst, legalArgs op = 1 := by decide

theorem legalArgs_reserved : ∀ op : BitVec 4, 0xB ≤ op.toNat → legalArgs op = 0 := by decide

theorem isOk_noOperand (arg : Byte) (i : Instr) : (noOperand arg i).isOk = decide (arg = 0) := by
  by_cases h : arg = 0
  · subst h
    rfl
  · rw [noOperand_of_ne_zero h, decide_eq_false h]
    rfl

/-- A count over a range is the sum of the counts over its blocks. -/
theorem countP_range_blocks (p : Nat → Bool) (m n : Nat) : (List.range (m * n)).countP p =
    ((List.range n).map fun k => (List.range m).countP fun a => p (m * k + a)).sum := by
  induction n with
  | zero => rfl
  | succ n ih =>
    rw [Nat.mul_succ, List.range_add, List.countP_append, ih, List.countP_map, List.range_succ, List.map_append,
      List.sum_append, List.map_singleton, List.sum_singleton]
    rfl

theorem countP_legal_of_OP (op : BitVec 4) :
    (List.range 256).countP (fun a => (decodeCommand (commandWord op (BitVec.ofNat 8 a))).isOk) =
      legalArgs op := by
  obtain hop | rfl | rfl | rfl | hop := OP_cases op
  · obtain ⟨⟨op, i⟩, hi, rfl⟩ := List.mem_map.1 hop
    rw [legalArgs_operandless _ hop]
    simp only [decodeCommand_of_operandless hi, isOk_noOperand]
    exact (countP_range_blocks _ 16 16).trans (by decide)
  · simp only [decodeCommand_setEng]
    exact (countP_range_blocks _ 16 16).trans (by decide)
  · simp only [decodeCommand_clrWarn]
    exact (List.countP_eq_length.2 fun _ _ => rfl).trans List.length_range
  · simp only [decodeCommand_bufPush]
    exact (List.countP_eq_length.2 fun _ _ => rfl).trans List.length_range
  · simp only [decodeCommand_reserved hop]
    rw [legalArgs_reserved op hop]
    exact List.countP_eq_zero.2 fun _ _ => Bool.false_ne_true

theorem isLegalCommand_fields {k a : Nat} (hk : k < 16) (ha : a < 256) :
    isLegalCommand (256 * k + a) =
      (decodeCommand (commandWord (BitVec.ofNat 4 k) (BitVec.ofNat 8 a))).isOk := by
  have hword : BitVec.ofNat 12 (256 * k + a) = commandWord (BitVec.ofNat 4 k) (BitVec.ofNat 8 a) := by
    refine BitVec.eq_of_toNat_eq ?_
    rw [commandWord, BitVec.toNat_append, BitVec.toNat_ofNat, BitVec.toNat_ofNat, BitVec.toNat_ofNat]
    rw [← Nat.shiftLeft_add_eq_or_of_lt (Nat.mod_lt _ (by decide)), Nat.shiftLeft_eq]
    omega
  have hlt : 256 * k + a < 4096 := by omega
  simp [isLegalCommand, hlt, hword]

theorem countP_legal : (List.range 4096).countP isLegalCommand = 522 := by
  calc (List.range 4096).countP isLegalCommand
      = ((List.range 16).map fun k =>
          (List.range 256).countP fun a => isLegalCommand (256 * k + a)).sum :=
        countP_range_blocks isLegalCommand 256 16
    _ = ((List.range 16).map fun k => legalArgs (BitVec.ofNat 4 k)).sum := by
        refine congrArg List.sum (List.map_congr_left fun k hk => ?_)
        rw [← countP_legal_of_OP]
        refine List.countP_congr fun a ha => ?_
        rw [isLegalCommand_fields (List.mem_range.1 hk) (List.mem_range.1 ha)]
    _ = 522 := by decide

/-- Settles O29: a rejected word is rejected for its fields, and the legal words are counted `OP` by `OP`. -/
theorem illegalWordsAreTheThreeClasses : Obligations.IllegalWordsAreTheThreeClasses := by
  unfold Obligations.IllegalWordsAreTheThreeClasses
  refine ⟨fun w => ⟨decodeCommand_eq_error_iff, ?_, ?_⟩, countP_legal⟩
  · rw [decodeCommand_eq_error_iff, IllegalFields, ARG_high_bits]
    rfl
  · rw [decodeCommand_eq_error_iff, IllegalFields, mem_operandless_iff]
    rfl

end Sys2Proof
end

section
/-! PROOFS. The response of a host command (spec/30_encoding.md R107), and the target-type mapping (R118). -/

namespace Sys2Proof.Machine

/-! ### Responses -/

@[simp] theorem deliverFrame_response (F : List Byte) (s : State) :
    (deliverFrame F s).response = s.response := by simp [deliverFrame]

@[simp] theorem byteStored_response (b : Byte) (s : State) : (byteStored b s).response = none := rfl

/-- The shape of the response that R107 gives an instruction. -/
def ResponseShape (P : Params) (i : Instr) (r : Option Response) : Prop :=
  match i with
  | .evByte _ | .evEmpty => r = none
  | .nop | .start | .stop | .setEng _ | .clrWarn _ | .bufClr | .bufPush _ => r = some .unit
  | .getData => r = some .empty ∨ ∃ x, r = some (.reading x)
  | .getStatus => ∃ x, r = some (.status x)
  | .decFw =>
    r = some .noFields ∨ ∃ hi lo minor, r = some (.fw hi lo minor) ∧ minor.length = P.FW_MIN_LEN
  | .decMac => r = some .noFields ∨ ∃ m0 m1 m2 m3 m4 m5, r = some (.mac m0 m1 m2 m3 m4 m5)

theorem responseShape_of_event {P : Params} {i : Instr} (he : i.isEvent = true) : ResponseShape P i none := by
  cases i with
  | evByte | evEmpty => rfl
  | _ => cases he

theorem Decodes.responseShape_noFields {P : Params} {i : Instr} {need : Nat} {answer : List Byte → Response}
    (hd : Decodes P i need answer) : ResponseShape P i (some .noFields) := by
  cases hd <;> exact .inl rfl

/-- A decode command that answers has the bytes it needs, so its fields have their length (R264, R265). -/
theorem Decodes.responseShape_answer {P : Params} {i : Instr} {need : Nat} {answer : List Byte → Response}
    {F : List Byte} (hd : Decodes P i need answer) (hF : need ≤ F.length) :
    ResponseShape P i (some (answer F)) := by
  cases hd with
  | fw =>
    rw [Params.needFw_eq] at hF
    refine .inr ⟨_, _, _, rfl, ?_⟩
    rw [List.length_reverse, length_slice (by omega)]
  | mac => exact .inr ⟨_, _, _, _, _, _, rfl⟩

theorem need_le_of_decFits {need : Nat} {s : State} (h : decFits need s = true) : need ≤ s.BUF_LEN := by
  simp only [decFits, Bool.and_eq_true, decide_eq_true_eq] at h
  omega

theorem Answers.responseShape {i : Instr} {s t : State} (ha : Answers s i t) :
    ResponseShape s.P i t.response := by
  cases ha with
  | notEnabled he => exact responseShape_of_event he
  | shiftByte | matchByte | shiftHole | storeByte | dropByte | deliverByte | abort => simp [ResponseShape]
  | nop | start | startIgnored | stopRequested | stopIgnored | setEng | clrWarn | bufClr | bufClrBusy | bufPush |
    bufFull | bufPushBusy => rfl
  | getReading => exact .inr ⟨_, rfl⟩
  | getEmpty => exact .inl rfl
  | getStatus => exact ⟨_, rfl⟩
  | decBusy hd | decRefused hd => exact hd.responseShape_noFields
  | decAnswered hd _ hn hF =>
    exact hd.responseShape_answer ((memRead_eq_some.1 hF).2.1 ▸ need_le_of_decFits hn)

/-- Settles O54: every outcome of an instruction has the instruction's shape of response. -/
theorem responseShapeFollowsTheCommand : Obligations.ResponseShapeFollowsTheCommand := by
  unfold Obligations.ResponseShapeFollowsTheCommand
  intro i s t h
  have hshape := (answers_of_exec h).responseShape
  cases i <;> exact hshape

/-! ### Target types -/

/-- Settles O60: the mapping's last case is every code above 3. -/
theorem targetTypeMapping : Obligations.TargetTypeMapping := by
  unfold Obligations.TargetTypeMapping
  refine ⟨rfl, rfl, rfl, rfl, fun c hc => ?_⟩
  unfold targetType
  split
  case h_5 => rfl
  all_goals omega

end Sys2Proof.Machine
end

section
/-! PROOFS. Traces (spec/30_encoding.md R121, R122): the bytes that PUSH loads, and a trace run directly against the
machine that steps through the trace's inputs. -/

namespace Sys2Proof.Machine

/-! ### Running a trace -/

theorem runCommandWord_of_decode {w : CommandWord} {i : Instr} (h : decodeCommand w = .ok i) (s : State) :
    runCommandWord w s = exec i s := by simp [runCommandWord, h]

theorem Trace.run_cons_of_next {x : TraceItem} {xs : Trace} {s t : State} (h : Trace.runItem x s = .next t) :
    Trace.run (x :: xs) s = Trace.run xs t := by simp [Trace.run, h]

/-- A run goes on item by item. -/
theorem Trace.run_cons_next {x : TraceItem} {xs : Trace} {s t : State} (h : Trace.run (x :: xs) s = .next t) :
    ∃ u, Trace.runItem x s = .next u ∧ Trace.run xs u = .next t := by
  rw [Trace.run] at h
  split at h
  · exact ⟨_, ‹_›, h⟩
  all_goals cases h

/-- An event item is run where events are enabled only (R121). -/
theorem runItem_event_next {w : EventWord} {s t : State} (h : Trace.runItem (.event w) s = .next t) :
    s.eventsEnabled = true ∧ exec (decodeEvent w) s = .next t := by
  rw [Trace.runItem] at h
  split at h
  · exact ⟨‹_›, h⟩
  · cases h

theorem runItem_event_of_enabled {s : State} (he : s.eventsEnabled = true) (w : EventWord) :
    Trace.runItem (.event w) s = exec (decodeEvent w) s := if_pos he

/-! ### PUSH -/

/-- The state after host steps that appended bytes to the valid ones (R262). -/
def pushed (bs : List Byte) (s : State) : State :=
  { withOutputs (some .unit) s with
    FB := s.FB.writeList s.BUF_LEN bs
    BUF_LEN := s.BUF_LEN + bs.length }

theorem exec_bufPush {s : State} (hw : s.P.wf = true) (hf : s.FSM = .idle) (hc : s.BUF_LEN < s.P.BUF_CAP)
    (b : Byte) : exec (.bufPush b) s = .next (pushed [b] s) := exec_of_answers hw (.bufPush hf hc)

/-- Pushing bytes that fit appends them in order; the outputs are those a host step has left already. -/
theorem run_pushes {s : State} {bs : List Byte} (hw : s.P.wf = true) (hf : s.FSM = .idle)
    (hc : s.BUF_LEN + bs.length ≤ s.P.BUF_CAP) (hout : withOutputs (some .unit) s = s) :
    Trace.run (bs.map fun b => .host (commandWord 0x8 b)) s = .next (pushed bs s) := by
  induction bs generalizing s with
  | nil => exact congrArg Host.Outcome.next hout.symm
  | cons b bs ih =>
    have hlen : s.BUF_LEN + 1 + bs.length = s.BUF_LEN + (b :: bs).length := by
      rw [List.length_cons]
      omega
    have hpush : Trace.runItem (.host (commandWord 0x8 b)) s = .next (pushed [b] s) :=
      (runCommandWord_of_decode (decodeCommand_bufPush b) s).trans (exec_bufPush hw hf (by omega) b)
    have hfits : (pushed [b] s).BUF_LEN + bs.length ≤ s.P.BUF_CAP := hlen ▸ hc
    rw [List.map_cons, Trace.run_cons_of_next hpush, ih (s := pushed [b] s) hw hf hfits rfl]
    exact congrArg (fun n => Host.Outcome.next { pushed (b :: bs) s with BUF_LEN := n }) hlen

/-- Settles O58: BUF_CLR empties the buffer, and the bytes pushed after it are the valid ones. -/
theorem pushLoadsTheBuffer : Obligations.PushLoadsTheBuffer := by
  unfold Obligations.PushLoadsTheBuffer
  intro s bs hw hf hc
  have hdecode : decodeCommand (commandWord 0x7 0) = .ok .bufClr := decodeCommand_of_encode rfl
  have hclr : Trace.runItem (.host (commandWord 0x7 0)) s =
      .next { withOutputs (some .unit) s with BUF_LEN := 0 } :=
    (runCommandWord_of_decode hdecode s).trans (exec_of_answers hw (.bufClr hf))
  have hrun := (Trace.run_cons_of_next hclr).trans (run_pushes hw hf (by simpa using hc) rfl)
  have hlen : 0 + bs.length = bs.length := Nat.zero_add _
  refine ⟨_, hrun, hf, rfl, rfl, hlen, ?_⟩
  exact (if_pos le_rfl).trans (Memory.readList_writeList s.FB 0 bs)

/-! ### The inputs of a state -/

/-- The state with other inputs waiting. -/
def State.withInputs (es : List EventWord) (cs : List CommandWord) (ts : List Turn) (s : State) : State :=
  { s with stream := es, commands := cs, schedule := ts }

section withInputs
variable (es : List EventWord) (cs : List CommandWord) (ts : List Turn)

theorem withOutputs_withInputs (r : Option Response) (s : State) :
    withOutputs r (s.withInputs es cs ts) = (withOutputs r s).withInputs es cs ts := rfl

theorem respond_withInputs (r : Response) (s : State) :
    respond r (s.withInputs es cs ts) = (respond r s).withInputs es cs ts := rfl

theorem countEmpty_withInputs (s : State) :
    countEmpty (s.withInputs es cs ts) = (countEmpty s).withInputs es cs ts := by
  rw [countEmpty_eq, countEmpty_eq]
  rfl

theorem checkTrailer_withInputs (F : List Byte) (L : Nat) (T : Marker) (s : State) :
    checkTrailer F L T (s.withInputs es cs ts) = (checkTrailer F L T s).withInputs es cs ts := by
  rw [checkTrailer_eq, checkTrailer_eq]
  rfl

theorem deliverFrame_withInputs (F : List Byte) (s : State) :
    deliverFrame F (s.withInputs es cs ts) = (deliverFrame F s).withInputs es cs ts := by
  simp only [deliverFrame, afterPublish_eq, checkTargetType_eq, checkTrailer_eq]
  rfl

/-- No instruction looks at the inputs that wait: the outcome stays the same one (R86). -/
theorem Answers.withInputs {i : Instr} {s t : State} (ha : Answers s i t) :
    Answers (s.withInputs es cs ts) i (t.withInputs es cs ts) := by
  cases ha with
  | notEnabled he hf => exact .notEnabled he hf
  | shiftByte hf hm => exact .shiftByte hf hm
  | matchByte hf hm hc => exact .matchByte hf hm hc
  | shiftHole hf =>
    have h : Answers (s.withInputs es cs ts) .evEmpty _ := .shiftHole hf
    rwa [withOutputs_withInputs, countEmpty_withInputs] at h
  | storeByte hf hc hl => exact .storeByte hf hc hl
  | dropByte hf hc hl hF hd => exact .dropByte hf hc hl hF hd
  | deliverByte hf hc hl hF hd =>
    rw [← deliverFrame_withInputs]
    exact .deliverByte hf hc hl hF hd
  | abort hf =>
    have h : Answers (s.withInputs es cs ts) .evEmpty _ := .abort hf
    rwa [withOutputs_withInputs, countEmpty_withInputs] at h
  | nop => exact .nop
  | start hf => exact .start hf
  | startIgnored hf => exact .startIgnored hf
  | stopRequested hf => exact .stopRequested hf
  | stopIgnored hf => exact .stopIgnored hf
  | setEng => exact .setEng
  | getReading hv => exact .getReading hv
  | getEmpty hv => exact .getEmpty hv
  | getStatus => exact .getStatus
  | clrWarn => exact .clrWarn
  | bufClr hf => exact .bufClr hf
  | bufClrBusy hf => exact .bufClrBusy hf
  | bufPush hf hc => exact .bufPush hf hc
  | bufFull hf hc => exact .bufFull hf hc
  | bufPushBusy hf => exact .bufPushBusy hf
  | decBusy hd hf => exact .decBusy hd hf
  | decRefused hd hf hu => exact .decRefused hd hf hu
  | decAnswered hd hf hn hF hs =>
    have h : Answers (s.withInputs es cs ts) _ _ := .decAnswered hd hf hn hF hs
    rwa [withOutputs_withInputs, respond_withInputs, checkTrailer_withInputs] at h

theorem exec_withInputs {i : Instr} {s t : State} (h : exec i s = .next t) :
    exec i (s.withInputs es cs ts) = .next (t.withInputs es cs ts) := by
  obtain ⟨hw, ha⟩ := exec_next_iff.1 h
  exact exec_next_iff.2 ⟨hw, ha.withInputs es cs ts⟩

theorem execIllegal_withInputs {s t : State} (h : execIllegal s = .next t) :
    execIllegal (s.withInputs es cs ts) = .next (t.withInputs es cs ts) := by
  obtain ⟨hw, rfl⟩ := illegal_next h
  exact hostStep_of_wf hw

theorem runCommandWord_withInputs {w : CommandWord} {s t : State} (h : runCommandWord w s = .next t) :
    runCommandWord w (s.withInputs es cs ts) = .next (t.withInputs es cs ts) := by
  unfold runCommandWord at h ⊢
  split at h
  · exact exec_withInputs es cs ts h
  · exact execIllegal_withInputs es cs ts h

end withInputs

/-! ### A trace as inputs -/

/-- What an item does is the same with other inputs waiting. -/
theorem runItem_withInputs {x : TraceItem} {s t : State} (h : Trace.runItem x s = .next t) (es : List EventWord)
    (cs : List CommandWord) (ts : List Turn) :
    Trace.runItem x (s.withInputs es cs ts) = .next (t.withInputs es cs ts) := by
  cases x with
  | host w => exact runCommandWord_withInputs es cs ts h
  | event w =>
    obtain ⟨he, h⟩ := runItem_event_next h
    exact (runItem_event_of_enabled (s := s.withInputs es cs ts) he w).trans (exec_withInputs es cs ts h)

/-- No item of a trace run directly takes an input of the state. -/
theorem sameInputs_runItem {x : TraceItem} {s t : State} (h : Trace.runItem x s = .next t) : SameInputs s t := by
  cases x with
  | host w =>
    simp only [Trace.runItem, runCommandWord] at h
    split at h
    · exact sameInputs_exec h
    · exact sameInputs_execIllegal h
  | event w => exact sameInputs_exec (runItem_event_next h).2

/-- Loading a trace replaces the inputs, by the same ones in every state that has the same inputs. -/
theorem load_eq_withInputs (xs : Trace) {s t : State} (h : SameInputs s t) :
    Trace.load xs t =
      t.withInputs (Trace.load xs s).stream (Trace.load xs s).commands (Trace.load xs s).schedule := by
  induction xs with
  | nil =>
    obtain ⟨-, hts, hes, hcs⟩ := h
    simp [Trace.load, State.withInputs, ← hts, ← hes, ← hcs]
  | cons x xs ih => cases x <;> simp [Trace.load, ih, State.withInputs]

/-- An item does to the loaded state what it does to the state before. -/
theorem runItem_load {x : TraceItem} {s t : State} (h : Trace.runItem x s = .next t) (xs : Trace) :
    Trace.runItem x (Trace.load xs s) = .next (Trace.load xs t) := by
  rw [load_eq_withInputs xs (sameInputs_runItem h), load_eq_withInputs xs (s := s) (t := s) ⟨rfl, rfl, rfl, rfl⟩]
  exact runItem_withInputs h _ _ _

/-- The machine's step takes the item that is loaded in front (R86, R121). -/
theorem step_load_cons {x : TraceItem} {s t : State} (h : Trace.runItem x s = .next t) (xs : Trace) :
    step (Trace.load (x :: xs) s) = Trace.runItem x (Trace.load xs s) := by
  have hload := runItem_load h xs
  cases x with
  | host w => exact step_of_host_turn rfl
  | event w =>
    obtain ⟨he, -⟩ := runItem_event_next hload
    rw [runItem_event_of_enabled he]
    exact (step_of_event_turn rfl).trans (if_pos he)

theorem run_succ_of_step_next {M : Host.Core} {s t : M.State} (h : M.step s = .next t) (n : Nat) :
    M.run (n + 1) s = M.run n t := by rw [Host.Core.run, h]

/-- Settles O59: a step of the machine for each item, from the state loaded with the items that are left. -/
theorem loadedTraceRunsAsTheTrace : Obligations.LoadedTraceRunsAsTheTrace := by
  unfold Obligations.LoadedTraceRunsAsTheTrace
  intro xs
  induction xs with
  | nil => exact fun s t h => h
  | cons x xs ih =>
    intro s t h
    obtain ⟨u, hitem, hrest⟩ := Trace.run_cons_next h
    have hstep : step (Trace.load (x :: xs) s) = .next (Trace.load xs u) :=
      (step_load_cons hitem xs).trans (runItem_load hitem xs)
    exact (run_succ_of_step_next (M := core) hstep xs.length).trans (ih u t hrest)

end Sys2Proof.Machine
end

section
/-! PROOFS. The synchronizer (spec/40_sync.md): the HUNT event step as R152's whole function, and what runs of events
do to the window (R145) and to the failure counter (R140). -/

namespace Sys2Proof.Machine

/-! ### One event in HUNT -/

/-- The reference function's window test is the header comparison (R117). -/
theorem referenceHuntStep_of_match {e : Instr} {s : State}
    (hm : headerMatch s.P (s.WIN.shift (entryOf e)) = true) :
    referenceHuntStep e s =
      { referenceFailures e s with
        WIN := s.WIN.shift (entryOf e)
        ENG_LATCH := s.ENG_MODE
        FB := s.FB.writeList 0 s.P.HDR_TLM.toList
        BUF_LEN := 4
        FSM := .collect
        signals := (referenceFailures e s).signals ++ [.sync] } :=
  if_pos ((headerMatch_iff _ _).1 hm)

theorem referenceHuntStep_of_not_match {e : Instr} {s : State}
    (hm : headerMatch s.P (s.WIN.shift (entryOf e)) = false) :
    referenceHuntStep e s = { referenceFailures e s with WIN := s.WIN.shift (entryOf e) } :=
  if_neg fun hW => Bool.eq_false_iff.1 hm ((headerMatch_iff _ _).2 hW)

/-- A hole never completes a header (R117). -/
theorem headerMatch_shift_hole (P : Params) (W : Window) : headerMatch P (W.shift .hole) = false := by
  simp [headerMatch, Window.shift, Entry.holds, Entry.hole]

/-- The reference function's counter is the model's two (R140). -/
theorem referenceFailures_eq (e : Instr) (s : State) :
    referenceFailures e s = if e = .evEmpty then countEmpty s else countByte s := rfl

@[simp] theorem referenceFailures_P (e : Instr) (s : State) : (referenceFailures e s).P = s.P := by
  rw [referenceFailures_eq]
  split <;> simp

@[simp] theorem referenceFailures_FSM (e : Instr) (s : State) : (referenceFailures e s).FSM = s.FSM := by
  rw [referenceFailures_eq]
  split <;> simp

/-- An event in HUNT is R152's whole function: a byte that completes the header or not, and an empty read, which
never does. -/
theorem exec_eq_referenceHuntStep {e : Instr} {s : State} (he : e.isEvent = true) (hw : s.P.wf = true)
    (hf : s.FSM = .hunt) : exec e s = .next (referenceHuntStep e (withOutputs none s)) := by
  apply exec_of_answers hw
  cases e with
  | evByte b =>
    cases hm : headerMatch s.P (s.WIN.shift (.byte b)) with
    | true =>
      rw [referenceHuntStep_of_match hm]
      exact .matchByte hf hm (Params.four_le_bufCap hw)
    | false =>
      rw [referenceHuntStep_of_not_match hm]
      exact .shiftByte hf hm
  | evEmpty =>
    rw [referenceHuntStep_of_not_match (headerMatch_shift_hole _ _), referenceFailures_eq, if_pos rfl]
    exact .shiftHole hf
  | _ => cases he

/-- Settles O37: `exec_eq_referenceHuntStep`, with the outputs emptied written out. -/
theorem huntStepIsTheReferenceFunction : Obligations.HuntStepIsTheReferenceFunction := by
  unfold Obligations.HuntStepIsTheReferenceFunction
  exact fun _ _ he hw hf => exec_eq_referenceHuntStep he hw hf

/-- Settles O15: the two outcomes of a byte in HUNT, by the header comparison. -/
theorem huntByteShiftsAndMatches : Obligations.HuntByteShiftsAndMatches := by
  unfold Obligations.HuntByteShiftsAndMatches
  rintro b s H W hw hf rfl rfl
  have hiff := headerMatch_iff s.P (s.WIN.shift (.byte b))
  constructor
  · intro hW
    exact ⟨_, exec_of_answers hw (.matchByte hf (hiff.2 hW) (Params.four_le_bufCap hw)),
      Memory.readList_writeList _ _ _, fun a ha => Memory.read_writeList_other (.inr ha)⟩
  · intro hW
    exact exec_of_answers hw (.shiftByte hf (Bool.eq_false_iff.2 fun hm => hW (hiff.1 hm)))

/-- Settles O16: the one outcome of an empty read in HUNT, its two branches as one update of the state. -/
theorem huntEmptyShiftsAHole : Obligations.HuntEmptyShiftsAHole := by
  unfold Obligations.HuntEmptyShiftsAHole
  rintro s c hw hf rfl
  rw [exec_of_answers hw (.shiftHole hf), countEmpty_eq]
  rfl

/-! ### Runs of events -/

/-- A run of one more event is that event after the run. -/
theorem runEvents_concat {es : List Instr} {s t : State} (h : runEvents es s = .next t) (e : Instr) :
    runEvents (es ++ [e]) s = exec e t := by
  induction es generalizing s with
  | nil =>
    cases h
    simp only [List.nil_append, runEvents]
    cases exec e _ <;> rfl
  | cons x xs ih =>
    simp only [List.cons_append, runEvents] at h ⊢
    cases hx : exec x s with
    | next u => exact ih (by simpa [hx] using h)
    | fault r => simp [hx] at h
    | refused r => simp [hx] at h

/-- The entry of the `k`-th latest event, a hole where there is none (R32). -/
def recentEntry (es : List Instr) (k : Nat) : Entry := (es.reverse[k]?.map entryOf).getD .hole

/-- The window after events that found it empty (R145). -/
def recentWindow (es : List Instr) : Window :=
  ⟨recentEntry es 3, recentEntry es 2, recentEntry es 1, recentEntry es 0⟩

theorem recentWindow_nil : recentWindow [] = Window.holes := rfl

theorem recentWindow_concat (es : List Instr) (e : Instr) :
    recentWindow (es ++ [e]) = (recentWindow es).shift (entryOf e) := by
  simp [recentWindow, recentEntry, Window.shift]

theorem entryOf_eq_byte {e : Instr} {b : Byte} : entryOf e = .byte b ↔ e = .evByte b := by
  cases e <;> simp [entryOf, Entry.byte, Entry.hole]

/-- Only a byte makes an entry that is not a hole. -/
theorem recentEntry_eq_byte {es : List Instr} {k : Nat} {b : Byte} :
    recentEntry es k = .byte b ↔ es.reverse[k]? = some (.evByte b) := by
  unfold recentEntry
  cases es.reverse[k]? with
  | none => simp [Entry.hole, Entry.byte]
  | some e => simp [entryOf_eq_byte]

theorem endsWithHeader_iff {P : Params} {es : List Instr} :
    endsWithHeader P es ↔ (P.HDR_TLM.toList.map Instr.evByte).reverse <+: es.reverse := by
  rw [List.reverse_prefix]
  exact ⟨fun ⟨pre, h⟩ => ⟨pre, h.symm⟩, fun ⟨pre, h⟩ => ⟨pre, h.symm⟩⟩

/-- A list begins with four elements that are its first four. -/
theorem four_elements_prefix_iff {α : Type} {a b c d : α} {r : List α} :
    [d, c, b, a] <+: r ↔ r[3]? = some a ∧ r[2]? = some b ∧ r[1]? = some c ∧ r[0]? = some d := by
  rw [List.prefix_iff_getElem?]
  constructor
  · exact fun h => ⟨h 3 (by simp), h 2 (by simp), h 1 (by simp), h 0 (by simp)⟩
  · rintro ⟨ha, hb, hc, hd⟩ i hi
    match i, hi with
    | 0, _ => exact hd
    | 1, _ => exact hc
    | 2, _ => exact hb
    | 3, _ => exact ha

/-- The window holds the header exactly when the events end with it (R145). -/
theorem headerMatch_recentWindow {P : Params} {es : List Instr} :
    headerMatch P (recentWindow es) = true ↔ endsWithHeader P es := by
  rw [headerMatch_iff, endsWithHeader_iff]
  simp only [recentWindow, Window.mk.injEq, recentEntry_eq_byte]
  exact four_elements_prefix_iff.symm

/-- What one event does to a hunt, by the header comparison (R141, R142, R146). -/
theorem exec_hunt_event {e : Instr} {s : State} (hw : s.P.wf = true) (hf : s.FSM = .hunt)
    (he : e.isEvent = true) :
    ∃ t, exec e s = .next t ∧ t.P = s.P ∧
      if headerMatch s.P (s.WIN.shift (entryOf e)) then t.FSM = .collect ∧ t.BUF_LEN = 4
      else t.FSM = .hunt ∧ t.WIN = s.WIN.shift (entryOf e) := by
  refine ⟨_, exec_eq_referenceHuntStep he hw hf, ?_⟩
  cases hm : headerMatch s.P (s.WIN.shift (entryOf e)) with
  | true =>
    rw [referenceHuntStep_of_match (s := withOutputs none s) hm]
    simp
  | false =>
    rw [referenceHuntStep_of_not_match (s := withOutputs none s) hm]
    simp [hf]

/-- What a hunt from an empty window keeps: its window is `recentWindow` until the events end with the header. -/
theorem runEvents_of_hunt {s : State} (hw : s.P.wf = true) (hf : s.FSM = .hunt) (hW : s.WIN = Window.holes)
    (es : List Instr) (he : ∀ e ∈ es, e.isEvent = true)
    (hno : ∀ pre, pre <+: es → pre ≠ es → ¬ endsWithHeader s.P pre) :
    ∃ t, runEvents es s = .next t ∧ t.P = s.P ∧
      (endsWithHeader s.P es → t.FSM = .collect ∧ t.BUF_LEN = 4) ∧
      (¬ endsWithHeader s.P es → t.FSM = .hunt ∧ t.WIN = recentWindow es) := by
  induction es using List.reverseRecOn with
  | nil => exact ⟨s, rfl, rfl, fun ⟨pre, h⟩ => by simp [Marker.toList] at h, fun _ =>
    ⟨hf, hW.trans recentWindow_nil.symm⟩⟩
  | append_singleton es e ih =>
    obtain ⟨u, hrun, hP, -, hhunt⟩ := ih (fun x hx => he x (List.mem_append_left _ hx))
      fun pre hpre _ => hno pre (hpre.trans (List.prefix_append es [e])) fun heq => by
        have := hpre.length_le
        simp [heq] at this
    obtain ⟨hu, hWin⟩ := hhunt (hno es (List.prefix_append es [e]) (by simp))
    obtain ⟨t, hexec, hPt, hpos⟩ := exec_hunt_event (hP ▸ hw) hu (he e (by simp))
    rw [hP, hWin, ← recentWindow_concat] at hpos
    refine ⟨t, (runEvents_concat hrun e).trans hexec, hPt.trans hP, fun hh => ?_, fun hh => ?_⟩
    · rwa [if_pos (headerMatch_recentWindow.2 hh)] at hpos
    · rwa [if_neg (mt headerMatch_recentWindow.1 hh)] at hpos

/-- Settles O39: `runEvents_of_hunt` without the window. -/
theorem huntMatchesAtTheFirstOccurrence : Obligations.HuntMatchesAtTheFirstOccurrence := by
  unfold Obligations.HuntMatchesAtTheFirstOccurrence
  intro s es hw hf hW he hno
  obtain ⟨t, hrun, -, hcollect, hhunt⟩ := runEvents_of_hunt hw hf hW es he hno
  exact ⟨t, hrun, hcollect, fun hh => (hhunt hh).1⟩

/-! ### Empty reads in a row -/

theorem satInc_min (W n : Nat) : satInc W (min n (2 ^ W - 1)) = min (n + 1) (2 ^ W - 1) := by
  have := Nat.two_pow_pos W
  rw [satInc_eq_min (by omega)]
  omega

/-- A counter that can hold 33 (R8(f)) passes the threshold at the 33rd read, saturating or not. -/
theorem threshold_lt_satInc_min_iff {W n : Nat} (hW : 6 ≤ W) :
    32 < satInc W (min n (2 ^ W - 1)) ↔ 33 ≤ n + 1 := by
  have : 2 ^ 6 ≤ 2 ^ W := Nat.pow_le_pow_right (by decide) hW
  rw [satInc_min]
  omega

theorem getElem_two_or_baudSuspect (w : BitVec 8) : (w ||| Warning.baudSuspect.bit)[2] = true := by
  simp [Warning.bit, Warning.code]

/-- What holds in `t` once `n` empty reads in a row have gone by from `s` with FAILCNT 0 (R140, R142). -/
structure EmptyReads (s : State) (n : Nat) (t : State) : Prop where
  params : t.P = s.P
  hunt : t.FSM = .hunt
  failcnt : t.FAILCNT = min n (2 ^ s.P.CNT_W - 1)
  warn : t.WARN[2] = (s.WARN[2] || decide (33 ≤ n))
  signals : 0 < n → t.signals = if 33 ≤ n then [.warning .baudSuspect] else []

theorem EmptyReads.succ {s t : State} {n : Nat} (hw : s.P.wf = true) (h : EmptyReads s n t) :
    ∃ u, exec .evEmpty t = .next u ∧ EmptyReads s (n + 1) u := by
  obtain ⟨-, -, -, -, -, -, hW⟩ := (Params.wf_iff _).1 hw
  have hth : 32 < satInc t.P.CNT_W t.FAILCNT ↔ 33 ≤ n + 1 := by
    rw [h.params, h.failcnt]
    exact threshold_lt_satInc_min_iff hW
  refine ⟨_, exec_of_answers (h.params ▸ hw) (.shiftHole h.hunt), ?_⟩
  constructor
  case params => simpa using h.params
  case hunt => simpa using h.hunt
  case failcnt => simp [h.params, h.failcnt, satInc_min]
  case signals =>
    intro _
    simp only [countEmpty_signals, withOutputs_signals, withOutputs_P, withOutputs_FAILCNT, hth]
    rfl
  case warn =>
    simp only [countEmpty_WARN, withOutputs_WARN, withOutputs_P, withOutputs_FAILCNT, hth]
    by_cases hn : 33 ≤ n + 1
    · simp only [hn, if_true, getElem_two_or_baudSuspect]
      simp
    · have hn' : ¬ 33 ≤ n := by omega
      simpa only [hn, hn', if_false] using h.warn

/-- Settles O40: by induction on the number of reads. -/
theorem baudWarningFromThe33rdEmptyRead : Obligations.BaudWarningFromThe33rdEmptyRead := by
  unfold Obligations.BaudWarningFromThe33rdEmptyRead
  intro n s hw hf h0
  have h : ∃ t, runEvents (List.replicate n .evEmpty) s = .next t ∧ EmptyReads s n t := by
    induction n with
    | zero => exact ⟨s, rfl, rfl, hf, by simpa using h0, by simp, nofun⟩
    | succ n ih =>
      obtain ⟨t, hrun, ht⟩ := ih
      obtain ⟨u, hexec, hu⟩ := ht.succ hw
      rw [List.replicate_succ', runEvents_concat hrun]
      exact ⟨u, hexec, hu⟩
  obtain ⟨t, hrun, ht⟩ := h
  exact ⟨t, hrun, ht.hunt, ht.failcnt, ht.warn, ht.signals⟩

/-! ### The counter and the window, instruction by instruction -/

@[simp] theorem deliverFrame_FAILCNT (F : List Byte) (s : State) : (deliverFrame F s).FAILCNT = s.FAILCNT := by
  simp [deliverFrame]

theorem Answers.failcnt_window_of_host {i : Instr} {s t : State} (ha : Answers s i t) (hi : i.isHost = true) :
    t.FAILCNT = s.FAILCNT ∧ t.WIN = if i = .start ∧ s.FSM = .idle then Window.holes else s.WIN := by
  cases ha with
  | notEnabled he => simp [Instr.isHost, he] at hi
  | decBusy hd | decRefused hd | decAnswered hd => cases hd <;> simp
  | shiftByte | matchByte | shiftHole | storeByte | dropByte | deliverByte | abort => cases hi
  | _ => simp [*]

theorem Answers.failcnt_of_byte {b : Byte} {s t : State} (ha : Answers s (.evByte b) t) (hf : s.FSM ≠ .idle) :
    t.FAILCNT = 0 := by
  cases ha with
  | notEnabled _ hf' => exact absurd hf' hf
  | deliverByte => exact deliverFrame_FAILCNT _ _
  | decBusy hd | decRefused hd | decAnswered hd => cases hd
  | _ => rfl

theorem Answers.failcnt_of_empty {s t : State} (ha : Answers s .evEmpty t) (hf : s.FSM ≠ .idle) :
    t.FAILCNT = satInc s.P.CNT_W s.FAILCNT := by
  cases ha with
  | notEnabled _ hf' => exact absurd hf' hf
  | shiftHole | abort => simp
  | decBusy hd | decRefused hd | decAnswered hd => cases hd

/-- Settles O52: host commands, bytes and empty reads, one lemma each. -/
theorem failcntFollowsTheEvents : Obligations.FailcntFollowsTheEvents := by
  unfold Obligations.FailcntFollowsTheEvents
  intro i s t h
  have ha := answers_of_exec h
  refine ⟨ha.failcnt_window_of_host, ?_, ?_⟩
  · rintro hf ⟨b, rfl⟩
    exact ha.failcnt_of_byte hf
  · rintro hf rfl
    exact ha.failcnt_of_empty hf

/-! ### Waiting in IDLE -/

/-- Settles O25: the turn waits with the item in the stream, and is gone from the schedule. -/
theorem eventWaitsWhileIdle : Obligations.EventWaitsWhileIdle := by
  unfold Obligations.EventWaitsWhileIdle
  intro s ts hw hturn hf
  rw [step_of_event_turn hturn]
  exact (eventTurn_of_waiting (s := { s with schedule := ts }) (.inr hf)).trans (whenWellFormed_of_wf hw)

end Sys2Proof.Machine
end

section
/-! PROOFS. Collecting a frame (spec/41_collect_decode.md): a byte stored and an empty read (R171, R173), the whole
frame read back in the step that completes it (R180), its drop by the heuristic (R183), its publication (R182, R185,
R186), and the COLLECT event step as R191's whole function. -/

namespace Sys2Proof.Machine

/-! ### A byte before the last, and an empty read -/

/-- A byte of a frame in flight has an address in `FB` (R8(d)). -/
theorem bufLen_lt_bufCap {s : State} (hw : s.P.wf = true) (hl : s.BUF_LEN < s.frameLen) :
    s.BUF_LEN < s.P.BUF_CAP :=
  hl.trans_le (Params.frameLen_le_bufCap hw s.ENG_LATCH)

/-- Settles O17: the outcome that stores the byte and counts it. -/
theorem collectByteIsStored : Obligations.CollectByteIsStored := by
  unfold Obligations.CollectByteIsStored
  intro b s hw hf hl
  exact ⟨_, exec_of_answers hw (.storeByte hf (bufLen_lt_bufCap hw (Nat.lt_of_succ_lt hl)) hl),
    Memory.read_write_same _ _ _, fun a ha => Memory.read_write_other _ _ ha⟩

/-- Settles O18: the one outcome of an empty read in COLLECT, its two branches as one update of the state. -/
theorem collectEmptyAbortsTheFrame : Obligations.CollectEmptyAbortsTheFrame := by
  unfold Obligations.CollectEmptyAbortsTheFrame
  rintro s c hw hf rfl
  rw [exec_of_answers hw (.abort hf), countEmpty_eq]
  rfl

/-! ### The completed frame, read back -/

/-- In a safe state the valid bytes and the byte are a frame. -/
theorem SafeState.exists_frameWith {s : State} (h : SafeState s) (b : Byte) :
    ∃ G, s.memRead 0 s.BUF_LEN = some G ∧ frameWith s b = some (G ++ [b]) := by
  obtain ⟨G, hG⟩ := h.memRead_valid
  exact ⟨G, hG, by rw [frameWith, hG, Option.map_some]⟩

/-- In COLLECT the valid bytes start with the header (R52(b)). -/
theorem SafeState.take_four_valid {s : State} {G : List Byte} (h : SafeState s) (hf : s.FSM = .collect)
    (hG : s.memRead 0 s.BUF_LEN = some G) : G.take 4 = s.P.HDR_TLM.toList := by
  have hlen : 0 + 4 ≤ s.BUF_LEN := by simpa using (h.collect hf).1
  have hread : s.memRead 0 4 = some s.P.HDR_TLM.toList := (if_pos hlen).trans (h.header hf)
  exact Option.some.inj ((memRead_eq_slice hG hlen).symm.trans hread)

/-- Settles O24: the frame is the valid bytes and the byte, and the first four of it were valid before. -/
theorem completedFrameIsWritten : Obligations.CompletedFrameIsWritten := by
  unfold Obligations.CompletedFrameIsWritten
  rintro b s m h hc rfl
  obtain ⟨G, hG, hF⟩ := h.exists_frameWith b
  have hlen : 4 ≤ G.length := (memRead_eq_some.1 hG).2.1 ▸ (h.collect hc.1).1
  refine ⟨G ++ [b], readList_write_of_completes hc hF, exec_of_completes h hc hF, hF,
    length_of_frameWith hc hF, ?_, List.getLast?_concat⟩
  rw [List.take_append_of_le_length hlen, h.take_four_valid hc.1 hG]

/-! ### The signature heuristic -/

/-- The signature is in the frame if each of its bytes is (R116). -/
theorem engSig_of_forall {P : Params} {F : List Byte}
    (hsig : ∀ j < P.ENG_SIG.length, F[P.ENG_SIG_OFF + j]? = P.ENG_SIG[j]?) : engSig P F = true := by
  refine beq_iff_eq.2 (List.ext_getElem? fun j => ?_)
  rw [slice, List.getElem?_take, List.getElem?_drop]
  split
  · next hj => exact hsig j hj
  · next hj => exact (List.getElem?_eq_none (Nat.le_of_not_lt hj)).symm

/-- Settles O19: the frame is completed, and completion takes the heuristic's branch. -/
theorem signatureDropsAStandardFrame : Obligations.SignatureDropsAStandardFrame := by
  unfold Obligations.SignatureDropsAStandardFrame
  intro b s F h hc hF hlatch hsig
  refine ⟨s.FB.write s.BUF_LEN b, ?_, Memory.read_write_same _ _ _,
    fun a ha => Memory.read_write_other _ _ ha⟩
  obtain ⟨-, -, heq⟩ | ⟨hd, -⟩ := completeFrame_cases F (byteStored b s)
  · rw [exec_of_completes h hc hF, heq]
    rfl
  · simp [hlatch, engSig_of_forall hsig] at hd

/-! ### The gate arrays -/

/-- Nine bytes inside a sequence are a gate array of it (R111). -/
theorem getElem?_eq_gateArray {F : List Byte} {a : Nat} (h : a + 8 < F.length) (i : Fin 9) :
    F[a + i]? = some (gateArray F a)[i] := by
  rw [getElem?_eq_byteAt (by omega)]
  simp

/-- Settles O21: the published arrays are the extracted ones, present exactly under the latch. -/
theorem publishedGatesFollowTheLatch : Obligations.PublishedGatesFollowTheLatch := by
  unfold Obligations.PublishedGatesFollowTheLatch
  intro b s F h hc hF hd
  refine ⟨_, exec_of_delivers h hc hF hd, deliverFrame_GATES_VALID _ _, ?_, ?_⟩ <;> intro hlatch <;>
    rw [deliverFrame_SLOT, byteStored_ENG_LATCH, hlatch]
  · obtain ⟨hMG, hSG⟩ := Params.gates_in_frame h.params
    rw [← hlatch, ← length_of_frameWith hc hF] at hMG hSG
    exact fun i => ⟨getElem?_eq_gateArray hMG i, getElem?_eq_gateArray hSG i⟩
  · exact ⟨rfl, rfl⟩

/-! ### The publication -/

/-- The trailer of a whole frame is its last four bytes (R115). -/
theorem trailerOk_iff {F : List Byte} {L : Nat} (hL : F.length = L) (T : Marker) :
    trailerOk F L T = true ↔ F.drop (F.length - 4) = T.toList := by
  subst hL
  rw [trailerOk, slice, List.take_of_length_le (by rw [List.length_drop]; omega), beq_iff_eq]

/-- A frame published, by the two conditions that warn (R182, R184, R186). -/
def published (F : List Byte) (bad reserved : Bool) (s : State) : State :=
  { s with
    SLOT := s.SLOT.publish (extract s.P s.ENG_LATCH F)
    SLOT_VALID := true
    CSUM_CNT := if bad then satInc s.P.CNT_W s.CSUM_CNT else s.CSUM_CNT
    WARN := s.WARN ||| (if bad then 0x01 else 0) ||| (if reserved then 0x20 else 0)
    FSM := if s.STOP_REQ then .idle else .hunt
    STOP_REQ := false
    BUF_LEN := 0
    WIN := if s.STOP_REQ then s.WIN else Window.holes
    signals :=
      s.signals ++ (if bad then [.warning .csumMismatch] else []) ++
        (if reserved then [.warning .ttInvalid] else []) ++ [.publish] ++
        (if s.STOP_REQ then [.stopped] else []) }

/-- Delivery as one update of the state: a condition that does not hold adds no bit and no signal (R180). -/
theorem deliverFrame_eq_published (F : List Byte) (s : State) :
    deliverFrame F s =
      published F (!trailerOk F s.frameLen s.P.TRL_TLM) (reservedTargetType (byteAt F s.P.OFF_TT)) s := by
  have hTT : (extract s.P s.ENG_LATCH F).TT = byteAt F s.P.OFF_TT := rfl
  simp only [deliverFrame, afterPublish_eq, checkTargetType_eq, checkTrailer_eq, hTT]
  cases trailerOk F s.frameLen s.P.TRL_TLM <;> cases reservedTargetType (byteAt F s.P.OFF_TT) <;>
    cases hs : s.STOP_REQ <;> simp [hs, publish, published, emit, Warning.bit, Warning.code]

/-- The byte that completes a frame without the signature publishes it (R180 to R186). -/
theorem exec_of_publishes {s : State} {b : Byte} {F : List Byte} (h : SafeState s) (hc : completes s)
    (hF : frameWith s b = some F) (hd : s.ENG_LATCH = true ∨
      ∃ j < s.P.ENG_SIG.length, F[s.P.ENG_SIG_OFF + j]? ≠ s.P.ENG_SIG[j]?) :
    exec (.evByte b) s = .next
      (published F (decide (F.drop (F.length - 4) ≠ s.P.TRL_TLM.toList))
        (decide (3 < (F.getD s.P.OFF_TT 0).toNat)) (byteStored b s)) := by
  have hbad : (!trailerOk F s.frameLen s.P.TRL_TLM) =
      decide (F.drop (F.length - 4) ≠ s.P.TRL_TLM.toList) := by
    rw [decide_not, ← decide_eq_decide.2 (trailerOk_iff (length_of_frameWith hc hF) _), Bool.decide_coe,
      frameLen_eq]
  rw [exec_of_delivers h hc hF hd, deliverFrame_eq_published, byteStored_frameLen, byteStored_P, hbad]
  rfl

/-- Settles O23: the byte is stored and the frame published, and `published` has the statement's fields. -/
theorem publicationHonoursAPendingStop : Obligations.PublicationHonoursAPendingStop := by
  unfold Obligations.PublicationHonoursAPendingStop
  rintro b s F bad reserved h hc hF hd rfl rfl
  exact ⟨_, _, _, exec_of_publishes h hc hF hd, Memory.read_write_same _ _ _,
    fun a ha => Memory.read_write_other _ _ ha⟩

/-- Of the two warnings a publication can raise only the trailer's is bit 0 (R41). -/
theorem published_WARN_zero (F : List Byte) (bad reserved : Bool) (s : State) :
    (published F bad reserved s).WARN[0] = (s.WARN[0] || bad) := by
  cases bad <;> cases reserved <;> simp [published]

theorem csumMismatch_mem_published {F : List Byte} {bad reserved : Bool} {s : State} :
    .warning .csumMismatch ∈ (published F bad reserved s).signals ↔
      .warning .csumMismatch ∈ s.signals ∨ bad = true := by
  cases bad <;> simp [published]

/-- Settles O22: the trailer decides the counter, `WARN` bit 0 and the first signal, and nothing of the slot. -/
theorem trailerCheckIsAdvisory : Obligations.TrailerCheckIsAdvisory := by
  unfold Obligations.TrailerCheckIsAdvisory
  intro b s F h hc hF hd
  refine ⟨_, exec_of_publishes h hc hF hd, rfl, by simp [published], rfl, fun hT => ?_, fun hT => ?_⟩ <;>
    rw [published_WARN_zero]
  · rw [csumMismatch_mem_published, decide_eq_false (not_not.2 hT)]
    exact ⟨rfl, Bool.or_false _, by simp⟩
  · rw [decide_eq_true hT]
    exact ⟨rfl, Bool.or_true _, rfl⟩

/-! ### The COLLECT event step as a whole function -/

theorem le16_eq_add (lo hi : Byte) : le16 lo hi = lo.setWidth 16 + 256 * hi.setWidth 16 := by
  apply BitVec.eq_of_toNat_eq
  rw [le16_toNat]
  bv_omega

/-- The trailer test byte by byte (R115, R191). -/
theorem trailerOk_iff_bytes {F : List Byte} {L : Nat} (hL : F.length = L) (h4 : 4 ≤ L) (T : Marker) :
    trailerOk F L T = true ↔
      [byteAt F (L - 4), byteAt F (L - 3), byteAt F (L - 2), byteAt F (L - 1)] = T.toList := by
  obtain ⟨n, rfl⟩ := Nat.exists_eq_add_of_le' h4
  rw [trailerOk, beq_iff_eq]
  iterate 4 rw [slice_succ (by omega)]
  rfl

/-- The slot after a publication, register by register (R184 to R186). -/
theorem publish_extract (P : Params) (latch : Bool) (F : List Byte) (S : Slot) :
    S.publish (extract P latch F) =
      { TT := byteAt F P.OFF_TT
        MD := halfAt F P.OFF_MD
        ME := byteAt F P.OFF_ME
        SD := halfAt F P.OFF_SD
        SE := byteAt F P.OFF_SE
        DD := byteAt F P.OFF_DD
        GATES_VALID := latch
        MG := if latch then gateArray F P.OFF_MG else S.MG
        SG := if latch then gateArray F P.OFF_SG else S.SG } := by
  cases latch <;> rfl

/-- The reference function's tail is completion (R180, R191). -/
theorem referenceComplete_eq {F : List Byte} {s : State} (hF : F.length = s.frameLen) :
    referenceComplete F s.frameLen s = completeFrame F s := by
  have h4 : 4 ≤ s.frameLen := by
    have := s.P.std_le_frameLen s.ENG_LATCH
    rw [frameLen_eq]
    omega
  have hT := trailerOk_iff_bytes hF h4 s.P.TRL_TLM
  obtain ⟨hlatch, hsig, heq⟩ | ⟨hd, heq⟩ := completeFrame_cases F s <;> rw [heq]
  · exact if_pos ⟨hlatch, beq_iff_eq.1 hsig⟩
  · have hdrop : ¬ (s.ENG_LATCH = false ∧ engSig s.P F = true) := by simpa [imp_iff_not_or] using hd
    refine (if_neg (mt (And.imp_right beq_iff_eq.2) hdrop)).trans ?_
    unfold byteAt at hT
    rw [deliverFrame_eq_published, published, publish_extract]
    simp only [ne_eq, ← hT, halfAt, le16_eq_add, reservedTargetType, decide_eq_true_eq, Bool.not_eq_true,
      Bool.not_eq_eq_eq_not, Bool.not_true]
    rfl

theorem referenceCollectStep_of_lt {s : State} (b : Byte) (hl : s.BUF_LEN + 1 < s.frameLen) :
    referenceCollectStep (.evByte b) (withOutputs none s) =
      some { byteStored b s with BUF_LEN := s.BUF_LEN + 1 } := by
  rw [frameLen_eq, Params.frameLen_eq] at hl
  exact if_pos hl

theorem referenceCollectStep_of_completes {s : State} {b : Byte} {F : List Byte} (hc : completes s)
    (hF : frameWith s b = some F) :
    referenceCollectStep (.evByte b) (withOutputs none s) = some (completeFrame F (byteStored b s)) := by
  have hlen := length_of_frameWith hc hF
  have hread := readList_write_of_completes hc hF
  have hl : ¬ s.BUF_LEN + 1 < s.frameLen := hc.2.not_lt
  rw [← referenceComplete_eq (s := byteStored b s) hlen, byteStored_frameLen]
  rw [frameLen_eq, Params.frameLen_eq] at hread hl ⊢
  exact (if_neg hl).trans (congrArg (Option.map _) hread)

/-- Settles O38: a byte before the last, the byte that completes the frame, and an empty read. -/
theorem collectStepIsTheReferenceFunction : Obligations.CollectStepIsTheReferenceFunction := by
  unfold Obligations.CollectStepIsTheReferenceFunction
  intro e s he h hf
  obtain ⟨-, hlt⟩ := h.collect hf
  cases e with
  | evByte b =>
    obtain hl | hl := Nat.lt_or_eq_of_le (Nat.succ_le_of_lt hlt)
    · exact ⟨_, referenceCollectStep_of_lt b hl,
        exec_of_answers h.params (.storeByte hf (bufLen_lt_bufCap h.params hlt) hl)⟩
    · obtain ⟨G, -, hF⟩ := h.exists_frameWith b
      exact ⟨_, referenceCollectStep_of_completes ⟨hf, hl⟩ hF, exec_of_completes h ⟨hf, hl⟩ hF⟩
  | evEmpty => exact ⟨_, rfl, exec_of_answers h.params (.abort hf)⟩
  | _ => cases he

/-! ### Outcomes -/

/-- Settles O49: an event in COLLECT has four of the outcomes of `Answers`, one for each disjunct. -/
theorem collectedFrameOutcomes : Obligations.CollectedFrameOutcomes := by
  unfold Obligations.CollectedFrameOutcomes
  intro e s t he h hf ht
  cases answers_of_exec ht with
  | notEnabled _ hf' | shiftByte hf' | matchByte hf' | shiftHole hf' =>
    exact absurd (hf.symm.trans hf') (by decide)
  | storeByte => exact .inl ⟨hf, rfl, rfl, rfl⟩
  | deliverByte =>
    exact .inr (.inl ⟨deliverFrame_FSM_ne_collect _ _, by simp [mem_signals_deliverFrame],
      deliverFrame_SLOT_VALID _ _⟩)
  | dropByte => exact .inr (.inr (.inl ⟨rfl, rfl, rfl, rfl⟩))
  | abort =>
    exact .inr (.inr (.inr ⟨rfl, rfl, by simp, by simp only [mem_signals_abort]; simp, by simp, by simp⟩))
  | decBusy hd | decRefused hd | decAnswered hd => simpa [Instr.isHost, he] using hd.isHost
  | _ => cases he

end Sys2Proof.Machine
end

section
/-! PROOFS. The host commands for control, status and the reading slot (spec/42_host_ops.md): each is the outcome of
`Answers` that the statement's hypotheses name, with its state written out. Only GET_STATUS (R225) needs more: the bits
of the composed registers. -/

namespace Sys2Proof.Machine

/-! ### Control commands -/

/-- Settles O1: NOP has one outcome, the state with its outputs emptied. -/
theorem nopChangesNothing : Obligations.NopChangesNothing := by
  unfold Obligations.NopChangesNothing
  exact fun _ hw => exec_of_answers hw .nop

/-- Settles O2: the two outcomes of START, by whether `FSM` is `IDLE`. -/
theorem startEntersHuntFromIdleOnly : Obligations.StartEntersHuntFromIdleOnly := by
  unfold Obligations.StartEntersHuntFromIdleOnly
  exact fun _ hw => ⟨fun hf => exec_of_answers hw (.start hf), fun hf => exec_of_answers hw (.startIgnored hf)⟩

/-- Settles O3: the two outcomes of STOP, by whether `FSM` is `IDLE`. -/
theorem stopOnlyRequests : Obligations.StopOnlyRequests := by
  unfold Obligations.StopOnlyRequests
  exact fun _ hw =>
    ⟨fun hf => exec_of_answers hw (.stopRequested hf), fun hf => exec_of_answers hw (.stopIgnored hf)⟩

/-- Settles O4: SET_ENG has one outcome, whatever `FSM` is. -/
theorem setEngWritesEngMode : Obligations.SetEngWritesEngMode := by
  unfold Obligations.SetEngWritesEngMode
  exact fun _ _ hw => exec_of_answers hw .setEng

/-! ### The reading slot and the warnings -/

/-- Settles O5: the two outcomes of GET_DATA, by whether the slot is filled. -/
theorem getDataReadsTheSlot : Obligations.GetDataReadsTheSlot := by
  unfold Obligations.GetDataReadsTheSlot
  exact fun _ hw => ⟨fun hv => exec_of_answers hw (.getReading hv), fun hv => exec_of_answers hw (.getEmpty hv)⟩

/-- Settles O7: CLR_WARN's one outcome, its mask read bit by bit. -/
theorem clrWarnClearsMaskedBits : Obligations.ClrWarnClearsMaskedBits := by
  unfold Obligations.ClrWarnClearsMaskedBits
  intro m s hw
  refine ⟨s.WARN &&& ~~~m, exec_of_answers hw .clrWarn, fun i => ?_⟩
  simp only [Fin.getElem_fin, BitVec.getElem_and, BitVec.getElem_not]

/-! ### The status registers, bit by bit -/

/-- Zero extension to a register's 8 bits moves no bit (R10). -/
theorem getLsbD_setWidth_eight {k : Nat} (hk : k ≤ 8) (x : BitVec k) (i : Nat) :
    (x.setWidth 8).getLsbD i = x.getLsbD i := by
  have hi : x.getLsbD i = true → i < 8 := fun h => (BitVec.lt_of_getLsbD h).trans_le hk
  simpa [BitVec.getLsbD_setWidth] using hi

/-- A flag at bit `n` is the one bit that can be 1 (R48). -/
theorem getLsbD_flagAt (v : Bool) {n : Nat} (hn : n < 8) (i : Nat) :
    (flagAt v n).getLsbD i = (decide (i = n) && v) := by
  rw [flagAt, BitVec.getLsbD_shiftLeft, getLsbD_setWidth_eight (by decide), BitVec.getLsbD_ofBool]
  grind

/-- `CTRL` is `ENG_MODE` alone (R48). -/
theorem getLsbD_ctrl (s : State) (i : Nat) : s.ctrl.getLsbD i = (decide (i = 0) && s.ENG_MODE) := by
  rw [State.ctrl, getLsbD_setWidth_eight (by decide), BitVec.getLsbD_ofBool]

/-- `STATUS` from its five parts (R48). -/
theorem getLsbD_status (s : State) (i : Nat) :
    s.status.getLsbD i =
      (s.FSM.code.getLsbD i || (decide (i = 2) && s.STOP_REQ) || (decide (i = 3) && s.SLOT_VALID) ||
        (decide (i = 4) && s.SLOT.GATES_VALID) || (decide (i = 5) && s.baudNow)) := by
  simp (disch := decide) only [State.status, BitVec.getLsbD_or, getLsbD_setWidth_eight, getLsbD_flagAt]

/-- The unused bits of `CTRL` read 0 (R48). -/
theorem ctrl_unused_zero (s : State) : s.ctrl.extractLsb' 1 7 = 0 := by
  ext i hi
  simp [getLsbD_ctrl]

/-- The low two bits of `STATUS` are the code of `FSM` (R33, R48). -/
theorem status_fsm (s : State) : s.status.extractLsb' 0 2 = s.FSM.code := by
  ext i hi
  rw [BitVec.getElem_extractLsb', getLsbD_status]
  grind

/-- The unused bits of `STATUS` read 0 (R48). -/
theorem status_unused_zero (s : State) : s.status.extractLsb' 6 2 = 0 := by
  ext i hi
  rw [BitVec.getElem_extractLsb', getLsbD_status]
  grind

/-- The bits of `STATUS` above the code of `FSM` are the four flags (R48). -/
theorem status_flags (s : State) :
    s.status[2] = s.STOP_REQ ∧ s.status[3] = s.SLOT_VALID ∧ s.status[4] = s.SLOT.GATES_VALID ∧
      s.status[5] = s.baudNow := by
  simp [← BitVec.getLsbD_eq_getElem, getLsbD_status]

/-- Register 3 is `FAULT`, its unused bits 0 (R48). -/
theorem statusRegs_fault (s : State) :
    s.statusRegs.FAULT.extractLsb' 0 4 = s.FAULT ∧ s.statusRegs.FAULT.extractLsb' 4 4 = 0 := by
  simp only [State.statusRegs, BitVec.extractLsb'_setWidth_of_le (by decide : 0 + 4 ≤ 8),
    BitVec.extractLsb'_setWidth_of_le (by decide : 4 + 4 ≤ 8)]
  exact ⟨BitVec.extractLsb'_eq_self, by ext i hi; simp⟩

/-- Settles O6: GET_STATUS's one outcome, its composed registers read bit by bit. -/
theorem getStatusRespondsWithSevenRegisters : Obligations.GetStatusRespondsWithSevenRegisters := by
  unfold Obligations.GetStatusRespondsWithSevenRegisters
  intro s hw
  obtain ⟨hstop, hslot, hgates, hbaud⟩ := status_flags s
  exact ⟨s.statusRegs, exec_of_answers hw .getStatus, ⟨getLsbD_ctrl s 0, ctrl_unused_zero s⟩,
    ⟨status_fsm s, hstop, hslot, hgates, hbaud, status_unused_zero s⟩, rfl, statusRegs_fault s, rfl, rfl, rfl⟩

/-! ### An illegal command word -/

theorem execIllegal_of_wf {s : State} (hw : s.P.wf = true) :
    execIllegal s = .next (raiseFault .illegalCmd (withOutputs (some .unit) s)) := hostStep_of_wf hw

/-- Settles O8: the host's turn takes the word, which R106 refuses whole. -/
theorem illegalWordIsRefusedWhole : Obligations.IllegalWordIsRefusedWhole := by
  unfold Obligations.IllegalWordIsRefusedWhole
  intro s w ws ts e hw hturn hcmd he
  rw [step_of_host_turn hturn, hostTurn_of_illegal_cons (s := { s with schedule := ts }) hcmd he]
  exact execIllegal_of_wf (s := { s with schedule := ts, commands := ws }) hw

end Sys2Proof.Machine
end

section
/-! PROOFS. The frame buffer commands and the refused decode commands (spec/43_ack_decode.md): each answer is the outcome
of `Answers` that the statement's hypotheses name. The three parts of R264's precondition that the statements write with
`MemRead` are those that `decodeAck` tests on the valid bytes. -/

namespace Sys2Proof.Machine

/-! ### The frame buffer -/

/-- Settles O10: the three outcomes of BUF_PUSH; the store is one write at the fill index. -/
theorem bufPushAppendsOneByte : Obligations.BufPushAppendsOneByte := by
  unfold Obligations.BufPushAppendsOneByte
  intro b s hw
  refine ⟨fun hf => exec_of_answers hw (.bufPushBusy hf), fun hf hc => exec_of_answers hw (.bufFull hf hc),
    fun hf hc => ⟨s.FB.write s.BUF_LEN b, exec_of_answers hw (.bufPush hf hc), ?_, fun a ha => ?_⟩⟩
  · exact Memory.read_write_same _ _ _
  · exact Memory.read_write_other _ _ ha

/-- Settles O9: the two outcomes of BUF_CLR, by whether `FSM` is `IDLE`. -/
theorem bufClrEmptiesInIdle : Obligations.BufClrEmptiesInIdle := by
  unfold Obligations.BufClrEmptiesInIdle
  exact fun _ hw => ⟨fun hf => exec_of_answers hw (.bufClr hf), fun hf => exec_of_answers hw (.bufClrBusy hf)⟩

/-! ### Decode commands refused -/

/-- Where one of the three parts fails, the command's own tests fail: too few bytes, or another header (R264). -/
theorem SafeState.decUnmet_of_not {s : State} {need : Nat} (h : SafeState s)
    (hpre : ¬ (8 ≤ s.BUF_LEN ∧ s.memRead 0 4 = some s.P.HDR_ACK.toList ∧ need ≤ s.BUF_LEN - 4)) :
    decUnmet need s := by
  by_cases hfits : 8 ≤ s.BUF_LEN ∧ need ≤ s.BUF_LEN - 4
  · obtain ⟨hl, hneed⟩ := hfits
    obtain ⟨F, hF⟩ := h.memRead_valid
    have hhdr : startsWith F s.P.HDR_ACK = true ↔ s.memRead 0 4 = some s.P.HDR_ACK.toList :=
      slice_beq_marker_iff hF (by omega) _
    exact .inr ⟨F, hF, Bool.eq_false_iff.2 fun hs => hpre ⟨hl, hhdr.1 hs, hneed⟩⟩
  · exact .inl (by simpa [decFits] using hfits)

/-- Settles O13: DEC_FW and DEC_MAC differ in the bytes they need alone, and have two refusals in common. -/
theorem decodePreconditionRefuses : Obligations.DecodePreconditionRefuses := by
  unfold Obligations.DecodePreconditionRefuses
  intro i need s h hi
  have hd : ∃ answer, Decodes s.P i need answer := by
    obtain ⟨rfl, rfl⟩ | ⟨rfl, rfl⟩ := hi
    · exact ⟨_, .fw⟩
    · exact ⟨_, .mac⟩
  obtain ⟨answer, hd⟩ := hd
  exact ⟨fun hf => exec_of_answers h.params (.decBusy hd hf),
    fun hf hpre => exec_of_answers h.params (.decRefused hd hf (h.decUnmet_of_not hpre))⟩

/-! ### The four commands outside IDLE -/

/-- Settles O14: each command's busy outcome (R260). -/
theorem bufferCommandsAreBusyWhileRunning : Obligations.BufferCommandsAreBusyWhileRunning := by
  unfold Obligations.BufferCommandsAreBusyWhileRunning
  intro i s hw hf hi
  obtain rfl | ⟨b, rfl⟩ | rfl | rfl := hi
  · exact exec_of_answers hw (.bufClrBusy hf)
  · exact exec_of_answers hw (.bufPushBusy hf)
  · exact exec_of_answers hw (.decBusy .fw hf)
  · exact exec_of_answers hw (.decBusy .mac hf)

end Sys2Proof.Machine
end

section
/-! PROOFS. The conditions a step can meet (spec/60_exceptions.md): none stops the FSD (R293), a raised fault bit stays
(R301), IDLE is left and entered in one way each (R315), and the signals of a step have one order (R296). Each is a case
split over the outcomes of `Answers`; the first gives an outcome for every safe state. -/

namespace Sys2Proof.Machine

/-! ### Further fields of a delivery -/

@[simp] theorem byteStored_FAULT (b : Byte) (s : State) : (byteStored b s).FAULT = s.FAULT := rfl

@[simp] theorem deliverFrame_FAULT (F : List Byte) (s : State) : (deliverFrame F s).FAULT = s.FAULT := by
  simp [deliverFrame]

@[simp] theorem deliverFrame_STOP_REQ (F : List Byte) (s : State) : (deliverFrame F s).STOP_REQ = false := by
  simp [deliverFrame]

/-- A delivered frame's signals, in order (R180, R296). -/
theorem deliverFrame_signals (F : List Byte) (s : State) :
    (deliverFrame F s).signals =
      s.signals ++ (if !trailerOk F s.frameLen s.P.TRL_TLM then [.warning .csumMismatch] else []) ++
        (if reservedTargetType (byteAt F s.P.OFF_TT) then [.warning .ttInvalid] else []) ++ [.publish] ++
        (if s.STOP_REQ then [.stopped] else []) := by
  rw [deliverFrame_eq_published]
  rfl

/-! ### Nothing stops the FSD -/

/-- An event goes on in each state of the FSM: waiting, as `HuntStep`, or as `CollectStep` (R149, R152, R191). -/
theorem exists_exec_event_of_safe {e : Instr} {s : State} (h : SafeState s) (he : e.isEvent = true) :
    ∃ t, exec e s = .next t := by
  cases hf : s.FSM with
  | idle => exact ⟨_, exec_of_answers h.params (.notEnabled he hf)⟩
  | hunt => exact ⟨_, exec_eq_referenceHuntStep he h.params hf⟩
  | collect =>
    obtain ⟨t, -, ht⟩ := collectStepIsTheReferenceFunction e s he h hf
    exact ⟨t, ht⟩

/-- A decode command is busy, refused or answered: the bytes it reads have been written (R72, R264). -/
theorem SafeState.exists_answer_decode {i : Instr} {need : Nat} {answer : List Byte → Response} {s : State}
    (h : SafeState s) (hd : Decodes s.P i need answer) : ∃ t, Answers s i t := by
  obtain ⟨F, hF⟩ := h.memRead_valid
  by_cases hf : s.FSM = .idle
  · cases hn : decFits need s with
    | false => exact ⟨_, .decRefused hd hf (.inl hn)⟩
    | true =>
      cases hs : startsWith F s.P.HDR_ACK with
      | false => exact ⟨_, .decRefused hd hf (.inr ⟨F, hF, hs⟩)⟩
      | true => exact ⟨_, .decAnswered hd hf hn hF hs⟩
  · exact ⟨_, .decBusy hd hf⟩

theorem SafeState.exists_answer_host {i : Instr} {s : State} (h : SafeState s) (hi : i.isHost = true) :
    ∃ t, Answers s i t := by
  cases i with
  | evByte | evEmpty => cases hi
  | nop => exact ⟨_, .nop⟩
  | start =>
    by_cases hf : s.FSM = .idle
    · exact ⟨_, .start hf⟩
    · exact ⟨_, .startIgnored hf⟩
  | stop =>
    by_cases hf : s.FSM = .idle
    · exact ⟨_, .stopIgnored hf⟩
    · exact ⟨_, .stopRequested hf⟩
  | setEng => exact ⟨_, .setEng⟩
  | getData =>
    cases hv : s.SLOT_VALID with
    | true => exact ⟨_, .getReading hv⟩
    | false => exact ⟨_, .getEmpty hv⟩
  | getStatus => exact ⟨_, .getStatus⟩
  | clrWarn => exact ⟨_, .clrWarn⟩
  | bufClr =>
    by_cases hf : s.FSM = .idle
    · exact ⟨_, .bufClr hf⟩
    · exact ⟨_, .bufClrBusy hf⟩
  | bufPush =>
    by_cases hf : s.FSM = .idle
    · obtain hc | hc := Nat.lt_or_eq_of_le h.bufLen
      · exact ⟨_, .bufPush hf hc⟩
      · exact ⟨_, .bufFull hf hc⟩
    · exact ⟨_, .bufPushBusy hf⟩
  | decFw => exact h.exists_answer_decode .fw
  | decMac => exact h.exists_answer_decode .mac

theorem exists_exec_of_safe {s : State} (h : SafeState s) (i : Instr) : ∃ t, exec i s = .next t := by
  cases he : i.isEvent with
  | true => exact exists_exec_event_of_safe h he
  | false =>
    obtain ⟨t, ht⟩ := h.exists_answer_host (i := i) (by rw [Instr.isHost, he]; rfl)
    exact ⟨t, exec_of_answers h.params ht⟩

theorem exists_waitStep_of_safe {s : State} (h : SafeState s) : ∃ t, waitStep s = .next t :=
  ⟨_, whenWellFormed_of_wf h.params⟩

theorem exists_eventTurn_of_safe {s : State} (h : SafeState s) : ∃ t, eventTurn s = .next t := by
  obtain ⟨-, hwait⟩ | ⟨-, w, ws, -, hrun⟩ := eventTurn_cases s
  · exact hwait ▸ exists_waitStep_of_safe h
  · exact hrun ▸ exists_exec_of_safe (h.inputs ws _ _) _

theorem exists_hostTurn_of_safe {s : State} (h : SafeState s) : ∃ t, hostTurn s = .next t := by
  obtain ⟨-, hwait⟩ | ⟨w, ws, -, ⟨i, -, hrun⟩ | ⟨r, -, hrun⟩⟩ := hostTurn_cases s
  · exact hwait ▸ exists_waitStep_of_safe h
  · exact hrun ▸ exists_exec_of_safe (h.inputs _ ws _) i
  · exact ⟨_, hrun.trans (execIllegal_of_wf h.params)⟩

theorem exists_step_of_safe {s : State} (h : SafeState s) : ∃ t, step s = .next t := by
  obtain ⟨-, hstep⟩ | ⟨ts, -, hstep⟩ | ⟨ts, -, hstep⟩ | ⟨ts, -, hstep⟩ := step_cases s <;> rw [hstep]
  · exact exists_waitStep_of_safe h
  · exact exists_eventTurn_of_safe (h.inputs _ _ ts)
  · exact exists_hostTurn_of_safe (h.inputs _ _ ts)
  · exact ⟨_, whenWellFormed_of_wf h.params⟩

/-- Settles O35: whoever's turn it is, and whatever the instruction, a safe state has an outcome. -/
theorem safeStatesNeverStop : Obligations.SafeStatesNeverStop := by
  unfold Obligations.SafeStatesNeverStop
  exact fun _ h => ⟨exists_step_of_safe h, exists_exec_of_safe h⟩

/-! ### Sticky faults -/

/-- A fault register kept as it was, or with one fault raised in it (R42, R298). -/
def RaisesAtMostOne (x y : BitVec 4) : Prop := y = x ∨ ∃ f : HostFault, y = x ||| f.bit

theorem RaisesAtMostOne.getElem {x y : BitVec 4} (h : RaisesAtMostOne x y) {i : Fin 4} (hi : x[i] = true) :
    y[i] = true := by
  obtain rfl | ⟨f, rfl⟩ := h
  · exact hi
  · simpa using .inl hi

theorem Answers.raisesAtMostOne {i : Instr} {s t : State} (ha : Answers s i t) :
    RaisesAtMostOne s.FAULT t.FAULT := by
  cases ha with
  | bufClrBusy | bufPushBusy | bufFull | decBusy | decRefused => exact .inr ⟨_, rfl⟩
  | shiftHole | abort | deliverByte | decAnswered => exact .inl (by simp)
  | _ => exact .inl rfl

theorem raisesAtMostOne_waitStep {s t : State} (h : waitStep s = .next t) : RaisesAtMostOne s.FAULT t.FAULT := by
  obtain ⟨-, rfl⟩ := waitStep_next h
  exact .inl rfl

theorem raisesAtMostOne_eventTurn {s t : State} (h : eventTurn s = .next t) : RaisesAtMostOne s.FAULT t.FAULT := by
  obtain ⟨-, heq⟩ | ⟨-, w, ws, -, heq⟩ := eventTurn_cases s
  · exact raisesAtMostOne_waitStep (heq ▸ h)
  · exact (answers_of_exec (s := { s with stream := ws }) (heq ▸ h)).raisesAtMostOne

theorem raisesAtMostOne_hostTurn {s t : State} (h : hostTurn s = .next t) : RaisesAtMostOne s.FAULT t.FAULT := by
  obtain ⟨-, heq⟩ | ⟨w, ws, -, ⟨i, -, heq⟩ | ⟨r, -, heq⟩⟩ := hostTurn_cases s
  · exact raisesAtMostOne_waitStep (heq ▸ h)
  · exact (answers_of_exec (s := { s with commands := ws }) (heq ▸ h)).raisesAtMostOne
  · obtain ⟨-, rfl⟩ := illegal_next (heq ▸ h)
    exact .inr ⟨_, rfl⟩

/-- Settles O45: on every turn but the reset input's, `FAULT` gains at most one bit. -/
theorem faultBitsOnlyResetClears : Obligations.FaultBitsOnlyResetClears := by
  unfold Obligations.FaultBitsOnlyResetClears
  intro s t i h hreset hi
  have hraise : RaisesAtMostOne s.FAULT t.FAULT := by
    obtain ⟨-, heq⟩ | ⟨ts, -, heq⟩ | ⟨ts, -, heq⟩ | ⟨ts, hs, -⟩ := step_cases s
    · exact raisesAtMostOne_waitStep (heq ▸ h)
    · exact raisesAtMostOne_eventTurn (s := { s with schedule := ts }) (heq ▸ h)
    · exact raisesAtMostOne_hostTurn (s := { s with schedule := ts }) (heq ▸ h)
    · simp [hs] at hreset
  exact hraise.getElem hi

/-! ### The signals of a step -/

theorem Answers.signals_of_byte {b : Byte} {s t : State} (ha : Answers s (.evByte b) t) :
    t.signals = [] ∨ t.signals = [.sync] ∨ t.signals = [.warning .modeDesync] ∨
    ∃ bad reserved stopping : Bool,
      t.signals =
        (if bad then [.warning .csumMismatch] else []) ++
          (if reserved then [.warning .ttInvalid] else []) ++ [.publish] ++
          (if stopping then [.stopped] else []) := by
  cases ha with
  | notEnabled | shiftByte | storeByte => exact .inl rfl
  | matchByte => exact .inr (.inl rfl)
  | dropByte => exact .inr (.inr (.inl rfl))
  | @deliverByte b F => exact .inr (.inr (.inr ⟨_, _, _, deliverFrame_signals F (byteStored b s)⟩))
  | decBusy hd | decRefused hd | decAnswered hd => cases hd

/-- A failed read is counted without a signal, or with BAUD_SUSPECT alone (R140). -/
theorem exists_countEmpty_signals (s : State) :
    ∃ baud : Bool, (countEmpty s).signals = s.signals ++ if baud then [.warning .baudSuspect] else [] := by
  rw [countEmpty_signals]
  split
  · exact ⟨true, rfl⟩
  · exact ⟨false, (List.append_nil _).symm⟩

theorem Answers.signals_of_empty {s t : State} (ha : Answers s .evEmpty t) :
    ∃ baud : Bool,
      t.signals =
        (if baud then [.warning .baudSuspect] else []) ++
          (if s.FSM = .collect then [.warning .frameAbort] else []) := by
  obtain ⟨baud, hbaud⟩ := exists_countEmpty_signals (withOutputs none s)
  cases ha with
  | notEnabled _ hf => exact ⟨false, by simp [hf]⟩
  | shiftHole hf =>
    have hne : s.FSM ≠ .collect := by simp [hf]
    refine ⟨baud, ?_⟩
    rw [if_neg hne, List.append_nil]
    exact hbaud
  | abort hf =>
    refine ⟨baud, ?_⟩
    rw [enterHunt_signals, raiseWarning_signals, hbaud, if_pos hf]
    rfl
  | decBusy hd | decRefused hd | decAnswered hd => cases hd

theorem Answers.length_signals_of_host {i : Instr} {s t : State} (ha : Answers s i t) (hi : i.isHost = true) :
    t.signals.length ≤ 1 := by
  cases ha with
  | notEnabled he => simp [Instr.isHost, he] at hi
  | shiftByte | matchByte | shiftHole | storeByte | dropByte | deliverByte | abort => cases hi
  | @decAnswered _ _ _ F =>
    cases hT : trailerOk F s.BUF_LEN s.P.TRL_ACK <;> simp [hT]
  | _ => simp

/-- Settles O55: the two events and the host's commands, each over their own outcomes. -/
theorem signalsComeInTheFixedOrder : Obligations.SignalsComeInTheFixedOrder := by
  unfold Obligations.SignalsComeInTheFixedOrder
  exact ⟨fun _ _ _ h => (answers_of_exec h).signals_of_byte, fun _ _ h => (answers_of_exec h).signals_of_empty,
    fun _ _ _ hi h => (answers_of_exec h).length_signals_of_host hi⟩

/-! ### The ways out of and into IDLE -/

/-- Of the outcomes outside IDLE only a delivery ends in it, and that only with a stop pending (R186, R315). -/
theorem Answers.delivered_of_enters_idle {i : Instr} {s t : State} (ha : Answers s i t) (hs : s.FSM ≠ .idle)
    (ht : t.FSM = .idle) :
    ∃ b F, i = .evByte b ∧ s.FSM = .collect ∧ s.STOP_REQ = true ∧ t = deliverFrame F (byteStored b s) := by
  cases hi : i.isHost with
  | true => exact absurd ((ha.host_keeps_position hi hs).1.symm.trans ht) hs
  | false =>
    cases ha with
    | notEnabled _ hf => exact absurd hf hs
    | shiftByte | storeByte => exact absurd ht hs
    | shiftHole => exact absurd (by simpa using ht) hs
    | matchByte | dropByte | abort => cases ht
    | @deliverByte b F hf =>
      cases hstop : s.STOP_REQ with
      | true => exact ⟨b, F, rfl, hf, rfl, rfl⟩
      | false => simp [hstop] at ht
    | decBusy hd | decRefused hd | decAnswered hd => simp [hd.isHost] at hi
    | _ => cases hi

/-- Settles O48: by the position in IDLE, and by the delivery that enters it. -/
theorem idleIsLeftByStartAndEnteredByPublication : Obligations.IdleIsLeftByStartAndEnteredByPublication := by
  unfold Obligations.IdleIsLeftByStartAndEnteredByPublication
  intro i s t h
  have ha := answers_of_exec h
  refine ⟨fun hs ht => ?_, fun hs ht => ?_⟩
  · obtain ⟨ht', -⟩ | ⟨hi, -, -⟩ := ha.position_of_idle hs
    · exact absurd ht' ht
    · exact hi
  · obtain ⟨b, F, rfl, hf, hstop, rfl⟩ := ha.delivered_of_enters_idle hs ht
    have hsig := deliverFrame_signals F (byteStored b s)
    simp only [byteStored_STOP_REQ, hstop, if_true] at hsig
    exact ⟨⟨b, rfl⟩, hf, hstop, deliverFrame_STOP_REQ _ _, by simp [hsig], by simp [hsig]⟩

end Sys2Proof.Machine
end

section
/-! PROOFS. The reset input's turn (spec/70_reset_and_hazards.md R330): where it leads, and that the values R55 gives
the state after reset are there. -/

namespace Sys2Proof.Machine

/-- The reset input is never refused on a well-formed record, in whatever position it lands (R330). -/
theorem step_of_reset_turn_of_wf {s : State} {ts : List Turn} (hw : s.P.wf = true) (hs : s.schedule = .reset :: ts) :
    step s = .next (applyReset { s with schedule := ts }) :=
  calc step s = resetStep { s with schedule := ts } := step_of_reset_turn hs
    _ = .next (applyReset { s with schedule := ts }) := whenWellFormed_of_wf hw

/-- Settles O32: `applyReset` is `State.resetWith` of the machine's own record but for the inputs, which it keeps, so
the values are those of O31. -/
theorem resetInputRestoresResetValues : Obligations.ResetInputRestoresResetValues := by
  unfold Obligations.ResetInputRestoresResetValues
  intro s ts hw hs
  have hvalues := resetValuesAreAsSpecified (State.resetWith s.P) (.inr ⟨s.P, rfl⟩)
  exact ⟨applyReset { s with schedule := ts }, step_of_reset_turn_of_wf hw hs, rfl, rfl, rfl, rfl, hvalues⟩

end Sys2Proof.Machine
end
